-- ==== Sys2Proof/Word.lean ====
section
/-! DEFINITION. The data units of the Series 32000 (20_memory.md R81, 10_state.md R24). -/
namespace Sys2Proof

/-- Byte: 8 bits (R81). -/
abbrev Byte := BitVec 8
/-- Word: 16 bits (R81). -/
abbrev Word := BitVec 16
/-- Double-word: 32 bits (R81). -/
abbrev Dword := BitVec 32
/-- Quad-word: 64 bits (R81). -/
abbrev Quad := BitVec 64
/-- The implemented bits of an address register (R24). -/
abbrev AddrReg := BitVec 24

end Sys2Proof
end

