-- ==== Sys2Proof/Config.lean ====
section
/-! DEFINITION. What an implementation fixes (00_scope.md R7, 92_eei_decisions.md D9, D11) and the free values. -/
namespace Sys2Proof.Config

/-- `ADDR_IMPL`: 24 implemented address bits, so 2^24 bytes (R7, R80). -/
def memSize : Nat := 16777216

/-- The Interrupt Acknowledge and End of Interrupt address (R97, R98). -/
def ackAddr : Nat := 0xFFFE00

/-- The Non-Maskable Interrupt acknowledge address (R97, R98). -/
def nmiAckAddr : Nat := 0xFFFF00

/-- What a byte of memory reads as before anything has written it. DESIGN CHOICE (log 2), unsafe: the
environment of 95_test_vectors.md section 0. -/
def unlistedByte : Byte := 0

/-- The optional devices attached, as CFG bits: C 3, M 2, F 1, I 0 (92_eei_decisions.md D9). DESIGN CHOICE
(log 21): all four. -/
def attached : BitVec 4 := 0b1111

/-- The k-th free value: what an outcome the spec leaves open is. Nothing constrains it (log 6). -/
opaque freeValue : Nat → Quad

end Sys2Proof.Config
end

