-- ==== Sys2Proof/Syntax.lean ====
section
/-! DEFINITION. The instructions: one constructor of `Instr` per row of spec/opcode_table.json, with the operand
syntax of 30_encoding.md. -/
namespace Sys2Proof

/-- Integer length field `i`: B = 00, W = 01, D = 11 (R134). -/
inductive IntLen where
  | b | w | d
deriving DecidableEq, Repr

/-- len(i) in bytes (R10). -/
def IntLen.bytes : IntLen → Nat
  | .b => 1
  | .w => 2
  | .d => 4

/-- bits(i) (R10). -/
def IntLen.bits (i : IntLen) : Nat := 8 * i.bytes

/-- Floating-point length field `f`: F = 1, L = 0 (R135). -/
inductive FpLen where
  | single | double
deriving DecidableEq, Repr

/-- 4 or 8 bytes (R10). -/
def FpLen.bytes : FpLen → Nat
  | .single => 4
  | .double => 8

/-- A displacement field of 1, 2 or 4 bytes (R140). -/
inductive Disp where
  | d1 (v : BitVec 7)
  | d2 (v : BitVec 14)
  | d4 (v : BitVec 30)
deriving DecidableEq, Repr

/-- The signed value a displacement holds (R140). -/
def Disp.value : Disp → Int
  | .d1 v => v.toInt
  | .d2 v => v.toInt
  | .d4 v => v.toInt

/-- Scale of an index: byte, word, double-word, quad-word (R143, R153). -/
inductive Scale where
  | b | w | d | q
deriving DecidableEq, Repr

/-- The factor of a scale (R153). -/
def Scale.factor : Scale → Nat
  | .b => 1
  | .w => 2
  | .d => 4
  | .q => 8

/-- The addressing modes that may be a basemode (R143): all but Immediate and Scaled Indexing. -/
inductive Mode where
  | reg (r : Fin 8)
  | regRel (r : Fin 8) (d : Disp)
  | frameRel (d1 d2 : Disp)
  | stackRel (d1 d2 : Disp)
  | staticRel (d1 d2 : Disp)
  | absolute (d : Disp)
  | ext (d1 d2 : Disp)
  | tos
  | frame (d : Disp)
  | stack (d : Disp)
  | static (d : Disp)
  | program (d : Disp)
deriving DecidableEq, Repr

/-- A general operand (R143). -/
inductive Gen where
  | mode (m : Mode)
  | scaled (sc : Scale) (base : Mode) (x : Fin 8)
  | imm (v : Quad)
deriving DecidableEq, Repr

/-- Registers of LPRi and SPRi (R70). -/
inductive ProcReg where
  | upsr | fp | sp | sb | psr | intbase | mod
deriving DecidableEq, Repr

/-- Registers of LMR and SMR (R481). -/
inductive MmuReg where
  | bpr0 | bpr1 | pf0 | pf1 | sc | msr | bcnt | ptb0 | ptb1 | eia
deriving DecidableEq, Repr

/-- The match option of a String instruction: none, While or Until (R174). -/
inductive MatchOpt where
  | none | while | until
deriving DecidableEq, Repr

/-- The options of a String instruction other than translation (R174). -/
structure StrOpt where
  backward : Bool
  cond : MatchOpt
deriving DecidableEq, Repr

/-- The instructions. A length stands first, operands in Syntax order (gen1 then gen2 in the 2E group). -/
inductive Instr where
  -- F-1 (R170)
  | bsr (d : Disp)
  | ret (d : Disp)
  | cxp (d : Disp)
  | rxp (d : Disp)
  | rett (d : Disp)
  | reti
  | save (l : Byte)
  | restore (l : Byte)
  | enter (l : Byte) (d : Disp)
  | exit (l : Byte)
  | nop
  | wait
  | dia
  | flag
  | svc
  | bpt
  -- F-Bcond (R171)
  | beq (d : Disp)
  | bne (d : Disp)
  | bcs (d : Disp)
  | bcc (d : Disp)
  | bhi (d : Disp)
  | bls (d : Disp)
  | bgt (d : Disp)
  | ble (d : Disp)
  | bfs (d : Disp)
  | bfc (d : Disp)
  | blo (d : Disp)
  | bhs (d : Disp)
  | blt (d : Disp)
  | bge (d : Disp)
  | br (d : Disp)
  -- F-GQ (R172)
  | addqi (i : IntLen) (q : BitVec 4) (dst : Gen)
  | cmpqi (i : IntLen) (q : BitVec 4) (src : Gen)
  | spri (i : IntLen) (p : ProcReg) (dst : Gen)
  | acbi (i : IntLen) (q : BitVec 4) (idx : Gen) (d : Disp)
  | movqi (i : IntLen) (q : BitVec 4) (dst : Gen)
  | lpri (i : IntLen) (p : ProcReg) (src : Gen)
  | seqi (i : IntLen) (dst : Gen)
  | snei (i : IntLen) (dst : Gen)
  | scsi (i : IntLen) (dst : Gen)
  | scci (i : IntLen) (dst : Gen)
  | shii (i : IntLen) (dst : Gen)
  | slsi (i : IntLen) (dst : Gen)
  | sgti (i : IntLen) (dst : Gen)
  | slei (i : IntLen) (dst : Gen)
  | sfsi (i : IntLen) (dst : Gen)
  | sfci (i : IntLen) (dst : Gen)
  | sloi (i : IntLen) (dst : Gen)
  | shsi (i : IntLen) (dst : Gen)
  | slti (i : IntLen) (dst : Gen)
  | sgei (i : IntLen) (dst : Gen)
  -- F-G (R173)
  | cxpd (desc : Gen)
  | bicpsri (i : IntLen) (src : Gen)
  | jump (dst : Gen)
  | bispsri (i : IntLen) (src : Gen)
  | adjspi (i : IntLen) (src : Gen)
  | jsr (dst : Gen)
  | casei (i : IntLen) (src : Gen)
  -- F-GG (R175)
  | addi (i : IntLen) (src dst : Gen)
  | cmpi (i : IntLen) (src1 src2 : Gen)
  | bici (i : IntLen) (src dst : Gen)
  | addci (i : IntLen) (src dst : Gen)
  | movi (i : IntLen) (src dst : Gen)
  | ori (i : IntLen) (src dst : Gen)
  | subi (i : IntLen) (src dst : Gen)
  | addr (src dst : Gen)
  | lxpd (d1 d2 : Disp) (dst : Gen)
  | andi (i : IntLen) (src dst : Gen)
  | subci (i : IntLen) (src dst : Gen)
  | tbiti (i : IntLen) (off base : Gen)
  | xori (i : IntLen) (src dst : Gen)
  -- F-0E (R174)
  | movsi (i : IntLen) (o : StrOpt)
  | movst (o : StrOpt)
  | cmpsi (i : IntLen) (o : StrOpt)
  | cmpst (o : StrOpt)
  | setcfg (c : BitVec 4)
  | skpsi (i : IntLen) (o : StrOpt)
  | skpst (o : StrOpt)
  -- F-4E (R176)
  | roti (i : IntLen) (cnt dst : Gen)
  | ashi (i : IntLen) (cnt dst : Gen)
  | cbiti (i : IntLen) (off base : Gen)
  | cbitii (i : IntLen) (off base : Gen)
  | lshi (i : IntLen) (cnt dst : Gen)
  | sbiti (i : IntLen) (off base : Gen)
  | sbitii (i : IntLen) (off base : Gen)
  | negi (i : IntLen) (src dst : Gen)
  | noti (i : IntLen) (src dst : Gen)
  | subpi (i : IntLen) (src dst : Gen)
  | absi (i : IntLen) (src dst : Gen)
  | comi (i : IntLen) (src dst : Gen)
  | ibiti (i : IntLen) (off base : Gen)
  | addpi (i : IntLen) (src dst : Gen)
  -- the 2E group (R177)
  | exti (i : IntLen) (off : Fin 8) (base dst : Gen) (len : Disp)
  | indexi (i : IntLen) (accum : Fin 8) (len idx : Gen)
  | cvtp (off : Fin 8) (base dst : Gen)
  | ffsi (i : IntLen) (base off : Gen)
  | insi (i : IntLen) (off : Fin 8) (src base : Gen) (len : Disp)
  | movsui (i : IntLen) (src dst : Gen)
  | movusi (i : IntLen) (src dst : Gen)
  | checki (i : IntLen) (dst : Fin 8) (bounds src : Gen)
  -- F-CE (R178)
  | movmi (i : IntLen) (block1 block2 : Gen) (len : Disp)
  | cmpmi (i : IntLen) (block1 block2 : Gen) (len : Disp)
  | inssi (i : IntLen) (src base : Gen) (off : BitVec 3) (len : BitVec 5)
  | extsi (i : IntLen) (base dst : Gen) (off : BitVec 3) (len : BitVec 5)
  | movxbw (src dst : Gen)
  | movzbw (src dst : Gen)
  | movzid (i : IntLen) (src dst : Gen)
  | movxid (i : IntLen) (src dst : Gen)
  | muli (i : IntLen) (src dst : Gen)
  | meii (i : IntLen) (src dst : Gen)
  | deii (i : IntLen) (src dst : Gen)
  | quoi (i : IntLen) (src dst : Gen)
  | remi (i : IntLen) (src dst : Gen)
  | modi (i : IntLen) (src dst : Gen)
  | divi (i : IntLen) (src dst : Gen)
  -- F-1E (R179)
  | rdval (loc : Gen)
  | wrval (loc : Gen)
  | lmr (m : MmuReg) (src : Gen)
  | smr (m : MmuReg) (dst : Gen)
  -- F-3E (R179)
  | movif (i : IntLen) (f : FpLen) (src dst : Gen)
  | lfsr (src : Gen)
  | movlf (src dst : Gen)
  | movfl (src dst : Gen)
  | roundfi (f : FpLen) (i : IntLen) (src dst : Gen)
  | truncfi (f : FpLen) (i : IntLen) (src dst : Gen)
  | sfsr (dst : Gen)
  | floorfi (f : FpLen) (i : IntLen) (src dst : Gen)
  -- F-BE (R179)
  | addf (f : FpLen) (src dst : Gen)
  | movf (f : FpLen) (src dst : Gen)
  | cmpf (f : FpLen) (src1 src2 : Gen)
  | subf (f : FpLen) (src dst : Gen)
  | negf (f : FpLen) (src dst : Gen)
  | divf (f : FpLen) (src dst : Gen)
  | mulf (f : FpLen) (src dst : Gen)
  | absf (f : FpLen) (src dst : Gen)
  /-- Pattern `xxxxxxxxxx0011xx10111110`; `hi` is bits 23:14, `lo` bits 9:8. -/
  | fpuIllegal0011 (hi : BitVec 10) (lo : BitVec 2)
  /-- Pattern `xxxxxxxxxx1001xx10111110`. -/
  | fpuIllegal1001 (hi : BitVec 10) (lo : BitVec 2)
  -- custom space (R184)
  | custom16
  | custom36
  | customB6
deriving DecidableEq, Repr

end Sys2Proof
end

