-- ==== Sys2Proof/WellFormed.lean ====
section
/-! DEFINITION. Which terms of `Instr` are instructions: what the encodings admit (30_encoding.md). -/
namespace Sys2Proof

/-- A displacement is within -16,777,215 to +16,777,215 (R140, U4). -/
def Disp.wf (d : Disp) : Bool := decide (-16777215 ≤ d.value) && decide (d.value ≤ 16777215)

/-- Every displacement of a mode is in range. -/
def Mode.wf : Mode → Bool
  | .reg _ => true
  | .regRel _ d => d.wf
  | .frameRel d1 d2 => d1.wf && d2.wf
  | .stackRel d1 d2 => d1.wf && d2.wf
  | .staticRel d1 d2 => d1.wf && d2.wf
  | .absolute d => d.wf
  | .ext d1 d2 => d1.wf && d2.wf
  | .tos => true
  | .frame d => d.wf
  | .stack d => d.wf
  | .static d => d.wf
  | .program d => d.wf

/-- An operand of class read and length `n`: an immediate fits its n bytes (R141). -/
def Gen.wfRead (n : Nat) : Gen → Bool
  | .mode m => m.wf
  | .scaled _ m _ => m.wf
  | .imm v => decide (v.toNat < 256 ^ n)

/-- An operand of any other class: never an immediate (R148, U6). -/
def Gen.wfLoc : Gen → Bool
  | .mode m => m.wf
  | .scaled _ m _ => m.wf
  | .imm _ => false

/-- The words of LXPD: External mode with a second displacement of 0 (R441; log 20). -/
def Gen.isLinkEntry : Gen → Bool
  | .mode (.ext _ d2) => decide (d2.value = 0)
  | _ => false

/-- The length has a B or a W form only (R173, R178, U11). -/
def IntLen.short : IntLen → Bool
  | .d => false
  | _ => true

/-- The instructions an encoding gives. -/
def Instr.wf : Instr → Bool
  | .bsr d => d.wf
  | .ret d => d.wf
  | .cxp d => d.wf
  | .rxp d => d.wf
  | .rett d => d.wf
  | .reti => true
  | .save _ => true
  | .restore _ => true
  | .enter _ d => d.wf
  | .exit _ => true
  | .nop => true
  | .wait => true
  | .dia => true
  | .flag => true
  | .svc => true
  | .bpt => true
  | .beq d => d.wf
  | .bne d => d.wf
  | .bcs d => d.wf
  | .bcc d => d.wf
  | .bhi d => d.wf
  | .bls d => d.wf
  | .bgt d => d.wf
  | .ble d => d.wf
  | .bfs d => d.wf
  | .bfc d => d.wf
  | .blo d => d.wf
  | .bhs d => d.wf
  | .blt d => d.wf
  | .bge d => d.wf
  | .br d => d.wf
  | .addqi _ _ g => g.wfLoc
  | .cmpqi i _ g => g.wfRead i.bytes
  | .spri _ _ g => g.wfLoc
  | .acbi _ _ g d => g.wfLoc && d.wf
  | .movqi _ _ g => g.wfLoc
  | .lpri i _ g => g.wfRead i.bytes
  | .seqi _ g => g.wfLoc
  | .snei _ g => g.wfLoc
  | .scsi _ g => g.wfLoc
  | .scci _ g => g.wfLoc
  | .shii _ g => g.wfLoc
  | .slsi _ g => g.wfLoc
  | .sgti _ g => g.wfLoc
  | .slei _ g => g.wfLoc
  | .sfsi _ g => g.wfLoc
  | .sfci _ g => g.wfLoc
  | .sloi _ g => g.wfLoc
  | .shsi _ g => g.wfLoc
  | .slti _ g => g.wfLoc
  | .sgei _ g => g.wfLoc
  | .cxpd g => g.wfLoc
  | .bicpsri i g => i.short && g.wfRead i.bytes
  | .jump g => g.wfLoc
  | .bispsri i g => i.short && g.wfRead i.bytes
  | .adjspi i g => g.wfRead i.bytes
  | .jsr g => g.wfLoc
  | .casei i g => g.wfRead i.bytes
  | .addi i a b => a.wfRead i.bytes && b.wfLoc
  | .cmpi i a b => a.wfRead i.bytes && b.wfRead i.bytes
  | .bici i a b => a.wfRead i.bytes && b.wfLoc
  | .addci i a b => a.wfRead i.bytes && b.wfLoc
  | .movi i a b => a.wfRead i.bytes && b.wfLoc
  | .ori i a b => a.wfRead i.bytes && b.wfLoc
  | .subi i a b => a.wfRead i.bytes && b.wfLoc
  | .addr a b => a.wfLoc && b.wfLoc && !a.isLinkEntry
  | .lxpd d1 d2 b => d1.wf && d2.wf && b.wfLoc && decide (d2.value = 0)
  | .andi i a b => a.wfRead i.bytes && b.wfLoc
  | .subci i a b => a.wfRead i.bytes && b.wfLoc
  | .tbiti i a b => a.wfRead i.bytes && b.wfLoc
  | .xori i a b => a.wfRead i.bytes && b.wfLoc
  | .movsi _ _ => true
  | .movst _ => true
  | .cmpsi _ _ => true
  | .cmpst _ => true
  | .setcfg _ => true
  | .skpsi _ _ => true
  | .skpst _ => true
  | .roti _ a b => a.wfRead 1 && b.wfLoc
  | .ashi _ a b => a.wfRead 1 && b.wfLoc
  | .cbiti i a b => a.wfRead i.bytes && b.wfLoc
  | .cbitii i a b => a.wfRead i.bytes && b.wfLoc
  | .lshi _ a b => a.wfRead 1 && b.wfLoc
  | .sbiti i a b => a.wfRead i.bytes && b.wfLoc
  | .sbitii i a b => a.wfRead i.bytes && b.wfLoc
  | .negi i a b => a.wfRead i.bytes && b.wfLoc
  | .noti i a b => a.wfRead i.bytes && b.wfLoc
  | .subpi i a b => a.wfRead i.bytes && b.wfLoc
  | .absi i a b => a.wfRead i.bytes && b.wfLoc
  | .comi i a b => a.wfRead i.bytes && b.wfLoc
  | .ibiti i a b => a.wfRead i.bytes && b.wfLoc
  | .addpi i a b => a.wfRead i.bytes && b.wfLoc
  | .exti _ _ a b d => a.wfLoc && b.wfLoc && d.wf
  | .indexi i _ a b => a.wfRead i.bytes && b.wfRead i.bytes
  | .cvtp _ a b => a.wfLoc && b.wfLoc
  | .ffsi i a b => a.wfRead i.bytes && b.wfLoc
  | .insi i _ a b d => a.wfRead i.bytes && b.wfLoc && d.wf
  | .movsui _ a b => a.wfLoc && b.wfLoc
  | .movusi _ a b => a.wfLoc && b.wfLoc
  | .checki i _ a b => a.wfLoc && b.wfRead i.bytes
  | .movmi _ a b d => a.wfLoc && b.wfLoc && d.wf
  | .cmpmi _ a b d => a.wfLoc && b.wfLoc && d.wf
  | .inssi i a b _ _ => a.wfRead i.bytes && b.wfLoc
  | .extsi _ a b _ _ => a.wfLoc && b.wfLoc
  | .movxbw a b => a.wfRead 1 && b.wfLoc
  | .movzbw a b => a.wfRead 1 && b.wfLoc
  | .movzid i a b => i.short && a.wfRead i.bytes && b.wfLoc
  | .movxid i a b => i.short && a.wfRead i.bytes && b.wfLoc
  | .muli i a b => a.wfRead i.bytes && b.wfLoc
  | .meii i a b => a.wfRead i.bytes && b.wfLoc
  | .deii i a b => a.wfRead i.bytes && b.wfLoc
  | .quoi i a b => a.wfRead i.bytes && b.wfLoc
  | .remi i a b => a.wfRead i.bytes && b.wfLoc
  | .modi i a b => a.wfRead i.bytes && b.wfLoc
  | .divi i a b => a.wfRead i.bytes && b.wfLoc
  | .rdval a => a.wfLoc
  | .wrval a => a.wfLoc
  | .lmr _ a => a.wfRead 4
  | .smr _ b => b.wfLoc
  | .movif i _ a b => a.wfRead i.bytes && b.wfLoc
  | .lfsr a => a.wfRead 4
  | .movlf a b => a.wfRead 8 && b.wfLoc
  | .movfl a b => a.wfRead 4 && b.wfLoc
  | .roundfi f _ a b => a.wfRead f.bytes && b.wfLoc
  | .truncfi f _ a b => a.wfRead f.bytes && b.wfLoc
  | .sfsr b => b.wfLoc
  | .floorfi f _ a b => a.wfRead f.bytes && b.wfLoc
  | .addf f a b => a.wfRead f.bytes && b.wfLoc
  | .movf f a b => a.wfRead f.bytes && b.wfLoc
  | .cmpf f a b => a.wfRead f.bytes && b.wfRead f.bytes
  | .subf f a b => a.wfRead f.bytes && b.wfLoc
  | .negf f a b => a.wfRead f.bytes && b.wfLoc
  | .divf f a b => a.wfRead f.bytes && b.wfLoc
  | .mulf f a b => a.wfRead f.bytes && b.wfLoc
  | .absf f a b => a.wfRead f.bytes && b.wfLoc
  | .fpuIllegal0011 _ _ => true
  | .fpuIllegal1001 _ _ => true
  | .custom16 => true
  | .custom36 => true
  | .customB6 => true

end Sys2Proof
end

