-- ==== Sys2Proof/Decode.lean ====
section
/-! DEFINITION. The decoder, total on any bytes and rejecting by name, and the encoder (30_encoding.md). -/
namespace Sys2Proof

/-- Why bytes are no instruction. -/
inductive DecodeError where
  /-- The bytes end inside the instruction. -/
  | truncated
  /-- No instruction is assigned: Trap (UND) (R182, D7). -/
  | undefinedInstruction
  /-- A 4-byte displacement outside -16,777,215 to +16,777,215 (U4). -/
  | displacementRange
  /-- Immediate mode for an operand that is not of class read (U6). -/
  | immediateNotRead
  /-- Scaled Indexing over Immediate or over Scaled Indexing (U7). -/
  | illegalBase
  /-- gen code 10011 (U8). -/
  | reservedMode
  /-- Length code i = 10 (U9). -/
  | reservedLength
  /-- String options UW = 10, or T = 1 with a length other than B (U10). -/
  | stringOptions
  /-- A fixed field holding another value (U11). -/
  | fixedField
  /-- An unassigned procreg code (U12). -/
  | processorRegister
  /-- An unassigned mmureg code (U12). -/
  | mmuRegister
  /-- An unassigned condition code (U14). -/
  | condition
deriving DecidableEq, Repr

/-! ## Parts of an instruction -/

/-- One displacement field (R140). -/
def readDisp : List Byte → Except DecodeError (Disp × List Byte)
  | [] => .error .truncated
  | b0 :: r =>
    if b0.toNat < 128 then .ok (.d1 (BitVec.ofNat 7 b0.toNat), r)
    else if b0.toNat < 192 then
      match r with
      | b1 :: r' => .ok (.d2 (BitVec.ofNat 14 (b0.toNat % 64 * 256 + b1.toNat)), r')
      | [] => .error .truncated
    else
      match r with
      | b1 :: b2 :: b3 :: r' =>
        let d : Disp := .d4 (BitVec.ofNat 30
          (b0.toNat % 64 * 16777216 + b1.toNat * 65536 + b2.toNat * 256 + b3.toNat))
        if d.wf then .ok (d, r') else .error .displacementRange
      | _ => .error .truncated

/-- An n-byte value stored most-significant byte first, after the bytes already read as `acc` (R141). -/
def readBig : Nat → Nat → List Byte → Except DecodeError (Nat × List Byte)
  | 0, acc, r => .ok (acc, r)
  | _ + 1, _, [] => .error .truncated
  | n + 1, acc, b :: r => readBig n (acc * 256 + b.toNat) r

/-- One byte. -/
def readByte : List Byte → Except DecodeError (Byte × List Byte)
  | [] => .error .truncated
  | b :: r => .ok (b, r)

/-- A gen field with its index byte, if it has one (R138). -/
inductive GenHead where
  | plain (code : Nat)
  | indexed (sc : Scale) (base : Nat) (x : Fin 8)
deriving DecidableEq, Repr

/-- The scale of a gen code 111ss (R143). -/
def scaleOfCode (c : Nat) : Scale :=
  match c % 4 with
  | 0 => .b
  | 1 => .w
  | 2 => .d
  | _ => .q

/-- The index byte follows iff the code is 111xx (R183). -/
def readHead (code : Nat) (r : List Byte) : Except DecodeError (GenHead × List Byte) :=
  if code < 28 then .ok (.plain code, r)
  else
    match r with
    | b :: r' => .ok (.indexed (scaleOfCode code) (b.toNat / 8) (Fin.ofNat 8 b.toNat), r')
    | [] => .error .truncated

/-- A mode with its one displacement. -/
def mode1 (mk : Disp → Mode) (r : List Byte) : Except DecodeError (Mode × List Byte) :=
  match readDisp r with
  | .ok (d, r') => .ok (mk d, r')
  | .error e => .error e

/-- A mode with its two displacements, disp1 first (R139). -/
def mode2 (mk : Disp → Disp → Mode) (r : List Byte) : Except DecodeError (Mode × List Byte) :=
  match readDisp r with
  | .ok (d, r') => mode1 (mk d) r'
  | .error e => .error e

/-- Table 4-2 for the modes that may be a basemode (R143). -/
def readMode (code : Nat) (r : List Byte) : Except DecodeError (Mode × List Byte) :=
  if code < 8 then .ok (.reg (Fin.ofNat 8 code), r)
  else if code < 16 then mode1 (.regRel (Fin.ofNat 8 code)) r
  else
    match code with
    | 16 => mode2 .frameRel r
    | 17 => mode2 .stackRel r
    | 18 => mode2 .staticRel r
    | 19 => .error .reservedMode
    | 21 => mode1 .absolute r
    | 22 => mode2 .ext r
    | 23 => .ok (.tos, r)
    | 24 => mode1 .frame r
    | 25 => mode1 .stack r
    | 26 => mode1 .static r
    | 27 => mode1 .program r
    | _ => .error .illegalBase

/-- A general operand from its gen field and its extension. `imm` is the length of an immediate where the class is
read, none where Immediate is not legal (R148). -/
def readGen (h : GenHead) (imm : Option Nat) (r : List Byte) : Except DecodeError (Gen × List Byte) :=
  match h with
  | .plain code =>
    if code = 20 then
      match imm with
      | some n =>
        match readBig n 0 r with
        | .ok (v, r') => .ok (.imm (BitVec.ofNat 64 v), r')
        | .error e => .error e
      | none => .error .immediateNotRead
    else
      match readMode code r with
      | .ok (m, r') => .ok (.mode m, r')
      | .error e => .error e
  | .indexed sc base x =>
    match readMode base r with
    | .ok (m, r') => .ok (.scaled sc m x, r')
    | .error e => .error e

/-- An instruction and the bytes after it. -/
abbrev Decoded := Except DecodeError (Instr × List Byte)

/-- The rest of an instruction with one general operand (R130). -/
def gen1 (c : Nat) (imm : Option Nat) (r : List Byte) (k : Gen → List Byte → Decoded) : Decoded :=
  match readHead c r with
  | .ok (h, r1) =>
    match readGen h imm r1 with
    | .ok (g, r2) => k g r2
    | .error e => .error e
  | .error e => .error e

/-- The rest of an instruction with two: index bytes A and B, then extensions A and B (R130). -/
def gen2 (ca cb : Nat) (ia ib : Option Nat) (r : List Byte) (k : Gen → Gen → List Byte → Decoded) : Decoded :=
  match readHead ca r with
  | .ok (ha, r1) =>
    match readHead cb r1 with
    | .ok (hb, r2) =>
      match readGen ha ia r2 with
      | .ok (a, r3) =>
        match readGen hb ib r3 with
        | .ok (b, r4) => k a b r4
        | .error e => .error e
      | .error e => .error e
    | .error e => .error e
  | .error e => .error e

/-- A trailing displacement. -/
def tailDisp (mk : Disp → Instr) (r : List Byte) : Decoded :=
  match readDisp r with
  | .ok (d, r') => .ok (mk d, r')
  | .error e => .error e

/-- A trailing imm byte. -/
def tailByte (mk : Byte → Instr) (r : List Byte) : Decoded :=
  match readByte r with
  | .ok (b, r') => .ok (mk b, r')
  | .error e => .error e

/-- One general operand and nothing after it. -/
def one (c : Nat) (imm : Option Nat) (mk : Gen → Instr) (r : List Byte) : Decoded :=
  gen1 c imm r (fun g r' => .ok (mk g, r'))

/-- Two general operands and nothing after them. -/
def two (ca cb : Nat) (ia ib : Option Nat) (mk : Gen → Gen → Instr) (r : List Byte) : Decoded :=
  gen2 ca cb ia ib r (fun a b r' => .ok (mk a b, r'))

/-- A field that must hold one value (U11). -/
def fixed (c : Bool) (k : Decoded) : Decoded := if c then k else .error .fixedField

/-- The length field of a 3-byte format (R134, U9). -/
def withLen (c : Nat) (k : IntLen → Decoded) : Decoded :=
  match c with
  | 0 => k .b
  | 1 => k .w
  | 3 => k .d
  | _ => .error .reservedLength

/-- The length field of a 2-byte format, where 10 does not occur (R183). -/
def lenOfCode (c : Nat) : IntLen :=
  match c with
  | 0 => .b
  | 1 => .w
  | _ => .d

/-- The floating-point length field (R135). -/
def fpOfCode (c : Nat) : FpLen := if c = 1 then .single else .double

/-- procreg codes (R70). -/
def procRegOfCode : Nat → Option ProcReg
  | 0 => some .upsr
  | 8 => some .fp
  | 9 => some .sp
  | 10 => some .sb
  | 13 => some .psr
  | 14 => some .intbase
  | 15 => some .mod
  | _ => none

/-- mmureg codes (R481). -/
def mmuRegOfCode : Nat → Option MmuReg
  | 0 => some .bpr0
  | 1 => some .bpr1
  | 4 => some .pf0
  | 5 => some .pf1
  | 8 => some .sc
  | 10 => some .msr
  | 11 => some .bcnt
  | 12 => some .ptb0
  | 13 => some .ptb1
  | 15 => some .eia
  | _ => none

/-! ## Formats -/

/-- Format F-1 (R170). -/
def decodeF1 (op : Nat) (r : List Byte) : Decoded :=
  match op with
  | 0 => tailDisp .bsr r
  | 1 => tailDisp .ret r
  | 2 => tailDisp .cxp r
  | 3 => tailDisp .rxp r
  | 4 => tailDisp .rett r
  | 5 => .ok (.reti, r)
  | 6 => tailByte .save r
  | 7 => tailByte .restore r
  | 8 =>
    match readByte r with
    | .ok (l, r') => tailDisp (.enter l) r'
    | .error e => .error e
  | 9 => tailByte .exit r
  | 10 => .ok (.nop, r)
  | 11 => .ok (.wait, r)
  | 12 => .ok (.dia, r)
  | 13 => .ok (.flag, r)
  | 14 => .ok (.svc, r)
  | _ => .ok (.bpt, r)

/-- Format F-Bcond (R171). -/
def decodeBcond (cond : Nat) (r : List Byte) : Decoded :=
  match cond with
  | 0 => tailDisp .beq r
  | 1 => tailDisp .bne r
  | 2 => tailDisp .bcs r
  | 3 => tailDisp .bcc r
  | 4 => tailDisp .bhi r
  | 5 => tailDisp .bls r
  | 6 => tailDisp .bgt r
  | 7 => tailDisp .ble r
  | 8 => tailDisp .bfs r
  | 9 => tailDisp .bfc r
  | 10 => tailDisp .blo r
  | 11 => tailDisp .bhs r
  | 12 => tailDisp .blt r
  | 13 => tailDisp .bge r
  | 14 => tailDisp .br r
  | _ => .error .condition

/-- Scondi of a condition code (R401, R404; U14). -/
def decodeScond (i : IntLen) (cond g : Nat) (r : List Byte) : Decoded :=
  match cond with
  | 0 => one g none (.seqi i) r
  | 1 => one g none (.snei i) r
  | 2 => one g none (.scsi i) r
  | 3 => one g none (.scci i) r
  | 4 => one g none (.shii i) r
  | 5 => one g none (.slsi i) r
  | 6 => one g none (.sgti i) r
  | 7 => one g none (.slei i) r
  | 8 => one g none (.sfsi i) r
  | 9 => one g none (.sfci i) r
  | 10 => one g none (.sloi i) r
  | 11 => one g none (.shsi i) r
  | 12 => one g none (.slti i) r
  | 13 => one g none (.sgei i) r
  | _ => .error .condition

/-- Format F-G (R173): `op` is I[10:7], `i` the raw length code. -/
def decodeG (op i g : Nat) (r : List Byte) : Decoded :=
  match op with
  | 0 => fixed (i == 3) (one g none .cxpd r)
  | 2 => fixed (i != 3) (one g (some (lenOfCode i).bytes) (.bicpsri (lenOfCode i)) r)
  | 4 => fixed (i == 3) (one g none .jump r)
  | 6 => fixed (i != 3) (one g (some (lenOfCode i).bytes) (.bispsri (lenOfCode i)) r)
  | 10 => one g (some (lenOfCode i).bytes) (.adjspi (lenOfCode i)) r
  | 12 => fixed (i == 3) (one g none .jsr r)
  | 14 => one g (some (lenOfCode i).bytes) (.casei (lenOfCode i)) r
  | _ => .error .undefinedInstruction

/-- Formats F-GQ (R172) and F-G: `op` is I[6:4], `q` is I[10:7], `g` is I[15:11]. -/
def decodeGQ (op ic q g : Nat) (r : List Byte) : Decoded :=
  let i := lenOfCode ic
  match op with
  | 0 => one g none (.addqi i (BitVec.ofNat 4 q)) r
  | 1 => one g (some i.bytes) (.cmpqi i (BitVec.ofNat 4 q)) r
  | 2 =>
    match procRegOfCode q with
    | some p => one g none (.spri i p) r
    | none => .error .processorRegister
  | 3 => decodeScond i q g r
  | 4 => gen1 g none r (fun x r' => tailDisp (.acbi i (BitVec.ofNat 4 q) x) r')
  | 5 => one g none (.movqi i (BitVec.ofNat 4 q)) r
  | 6 =>
    match procRegOfCode q with
    | some p => one g (some i.bytes) (.lpri i p) r
    | none => .error .processorRegister
  | _ => decodeG q ic g r

/-- ADDR, or LXPD where the source is a Link Table entry itself (R441; log 20). -/
def mkAddr (a b : Gen) : Instr :=
  match a with
  | .mode (.ext d1 d2) => if d2.value = 0 then .lxpd d1 d2 b else .addr a b
  | _ => .addr a b

/-- Format F-GG (R175): `op` is I[5:2]. -/
def decodeGG (op ic a b : Nat) (r : List Byte) : Decoded :=
  let i := lenOfCode ic
  let n := some i.bytes
  match op with
  | 0 => two a b n none (.addi i) r
  | 1 => two a b n n (.cmpi i) r
  | 2 => two a b n none (.bici i) r
  | 4 => two a b n none (.addci i) r
  | 5 => two a b n none (.movi i) r
  | 6 => two a b n none (.ori i) r
  | 8 => two a b n none (.subi i) r
  | 9 => fixed (ic == 3) (two a b none none mkAddr r)
  | 10 => two a b n none (.andi i) r
  | 12 => two a b n none (.subci i) r
  | 13 => two a b n none (.tbiti i) r
  | 14 => two a b n none (.xori i) r
  | _ => .error .undefinedInstruction

/-- The options of a String instruction: bits 18:15 are UW B T, low bit first (R174). -/
def withStrOpt (short : Nat) (k : StrOpt → Decoded) : Decoded :=
  match short / 4 % 4 with
  | 0 => k ⟨short / 2 % 2 == 1, .none⟩
  | 1 => k ⟨short / 2 % 2 == 1, .while⟩
  | 3 => k ⟨short / 2 % 2 == 1, .until⟩
  | _ => .error .stringOptions

/-- A String instruction in its plain or, with T = 1 and length B, its translating form (R174, U10). -/
def decodeString (ic short : Nat) (plain : IntLen → StrOpt → Instr) (tr : StrOpt → Instr) (r : List Byte) :
    Decoded :=
  withLen ic (fun i => withStrOpt short (fun o =>
    if short % 2 = 0 then .ok (plain i o, r)
    else if i = .b then .ok (tr o, r) else .error .stringOptions))

/-- Format F-0E (R174). -/
def decode0E (w : Nat) (r : List Byte) : Decoded :=
  let ic := w / 256 % 4
  let short := w / 32768 % 16
  let zero := w / 16384 % 2 == 0 && w / 524288 % 32 == 0
  match w / 1024 % 16 with
  | 0 => fixed zero (decodeString ic short .movsi .movst r)
  | 1 => fixed zero (decodeString ic short .cmpsi .cmpst r)
  | 2 => fixed (zero && ic == 3) (.ok (.setcfg (BitVec.ofNat 4 short), r))
  | 3 => fixed zero (decodeString ic short .skpsi .skpst r)
  | _ => .error .undefinedInstruction

/-- Format F-4E (R176). -/
def decode4E (w : Nat) (r : List Byte) : Decoded :=
  let ic := w / 256 % 4
  let a := w / 524288 % 32
  let b := w / 16384 % 32
  let src (mk : IntLen → Gen → Gen → Instr) : Decoded :=
    withLen ic (fun i => two a b (some i.bytes) none (mk i) r)
  let cnt (mk : IntLen → Gen → Gen → Instr) : Decoded :=
    withLen ic (fun i => two a b (some 1) none (mk i) r)
  match w / 1024 % 16 with
  | 0 => cnt .roti
  | 1 => cnt .ashi
  | 2 => src .cbiti
  | 3 => src .cbitii
  | 5 => cnt .lshi
  | 6 => src .sbiti
  | 7 => src .sbitii
  | 8 => src .negi
  | 9 => src .noti
  | 11 => src .subpi
  | 12 => src .absi
  | 13 => src .comi
  | 14 => src .ibiti
  | 15 => src .addpi
  | _ => .error .undefinedInstruction

/-- Format group F-xE (R177); `op2` is I[7:6]. -/
def decode2E (op2 w : Nat) (r : List Byte) : Decoded :=
  let ic := w / 256 % 4
  let a := w / 524288 % 32
  let b := w / 16384 % 32
  let rg := w / 2048 % 8
  let x : Fin 8 := Fin.ofNat 8 rg
  match op2, w / 1024 % 2 with
  | 0, 0 => withLen ic (fun i => gen2 a b none none r (fun p q r' => tailDisp (.exti i x p q) r'))
  | 0, _ => withLen ic (fun i => two a b (some i.bytes) (some i.bytes) (.indexi i x) r)
  | 1, 0 => fixed (ic == 3) (two a b none none (.cvtp x) r)
  | 1, _ => fixed (rg == 0) (withLen ic (fun i => two a b (some i.bytes) none (.ffsi i) r))
  | 2, 0 => withLen ic (fun i => gen2 a b (some i.bytes) none r (fun p q r' => tailDisp (.insi i x p q) r'))
  | 2, _ =>
    match rg with
    | 1 => withLen ic (fun i => two a b none none (.movsui i) r)
    | 3 => withLen ic (fun i => two a b none none (.movusi i) r)
    | _ => .error .undefinedInstruction
  | _, 0 => withLen ic (fun i => two a b none (some i.bytes) (.checki i x) r)
  | _, _ => .error .undefinedInstruction

/-- Format F-CE (R178). -/
def decodeCE (w : Nat) (r : List Byte) : Decoded :=
  let ic := w / 256 % 4
  let a := w / 524288 % 32
  let b := w / 16384 % 32
  let src (mk : IntLen → Gen → Gen → Instr) : Decoded :=
    withLen ic (fun i => two a b (some i.bytes) none (mk i) r)
  match w / 1024 % 16 with
  | 0 => withLen ic (fun i => gen2 a b none none r (fun p q r' => tailDisp (.movmi i p q) r'))
  | 1 => withLen ic (fun i => gen2 a b none none r (fun p q r' => tailDisp (.cmpmi i p q) r'))
  | 2 => withLen ic (fun i => gen2 a b (some i.bytes) none r (fun p q r' =>
      tailByte (fun m => .inssi i p q (BitVec.ofNat 3 (m.toNat / 32)) (BitVec.ofNat 5 m.toNat)) r'))
  | 3 => withLen ic (fun i => gen2 a b none none r (fun p q r' =>
      tailByte (fun m => .extsi i p q (BitVec.ofNat 3 (m.toNat / 32)) (BitVec.ofNat 5 m.toNat)) r'))
  | 4 => fixed (ic == 0) (two a b (some 1) none .movxbw r)
  | 5 => fixed (ic == 0) (two a b (some 1) none .movzbw r)
  | 6 => withLen ic (fun i => fixed i.short (two a b (some i.bytes) none (.movzid i) r))
  | 7 => withLen ic (fun i => fixed i.short (two a b (some i.bytes) none (.movxid i) r))
  | 8 => src .muli
  | 9 => src .meii
  | 11 => src .deii
  | 12 => src .quoi
  | 13 => src .remi
  | 14 => src .modi
  | 15 => src .divi
  | _ => .error .undefinedInstruction

/-- Format F-1E (R179). -/
def decode1E (w : Nat) (r : List Byte) : Decoded :=
  let g := w / 524288 % 32
  let short := w / 32768 % 16
  let ok := w / 16384 % 2 == 0 && w / 256 % 4 == 3
  match w / 1024 % 16 with
  | 0 => fixed (ok && short == 0) (one g none .rdval r)
  | 1 => fixed (ok && short == 0) (one g none .wrval r)
  | 2 => fixed ok (match mmuRegOfCode short with
    | some m => one g (some 4) (.lmr m) r
    | none => .error .mmuRegister)
  | 3 => fixed ok (match mmuRegOfCode short with
    | some m => one g none (.smr m) r
    | none => .error .mmuRegister)
  | _ => .error .undefinedInstruction

/-- Format F-3E (R179). -/
def decode3E (w : Nat) (r : List Byte) : Decoded :=
  let ic := w / 256 % 4
  let fc := w / 1024 % 2
  let f := fpOfCode fc
  let a := w / 524288 % 32
  let b := w / 16384 % 32
  match w / 2048 % 8 with
  | 0 => withLen ic (fun i => two a b (some i.bytes) none (.movif i f) r)
  | 1 => fixed (fc == 1 && ic == 3 && b == 0) (one a (some 4) .lfsr r)
  | 2 => fixed (fc == 1 && ic == 2) (two a b (some 8) none .movlf r)
  | 3 => fixed (fc == 0 && ic == 3) (two a b (some 4) none .movfl r)
  | 4 => withLen ic (fun i => two a b (some f.bytes) none (.roundfi f i) r)
  | 5 => withLen ic (fun i => two a b (some f.bytes) none (.truncfi f i) r)
  | 6 => fixed (fc == 1 && ic == 3 && a == 0) (one b none .sfsr r)
  | _ => withLen ic (fun i => two a b (some f.bytes) none (.floorfi f i) r)

/-- Format F-BE (R179). -/
def decodeBE (w : Nat) (r : List Byte) : Decoded :=
  let f := fpOfCode (w / 256 % 2)
  let a := w / 524288 % 32
  let b := w / 16384 % 32
  let zero := w / 512 % 2 == 0
  let n := some f.bytes
  match w / 1024 % 16 with
  | 0 => fixed zero (two a b n none (.addf f) r)
  | 1 => fixed zero (two a b n none (.movf f) r)
  | 2 => fixed zero (two a b n n (.cmpf f) r)
  | 3 => .ok (.fpuIllegal0011 (BitVec.ofNat 10 (w / 16384)) (BitVec.ofNat 2 (w / 256)), r)
  | 4 => fixed zero (two a b n none (.subf f) r)
  | 5 => fixed zero (two a b n none (.negf f) r)
  | 8 => fixed zero (two a b n none (.divf f) r)
  | 9 => .ok (.fpuIllegal1001 (BitVec.ofNat 10 (w / 16384)) (BitVec.ofNat 2 (w / 256)), r)
  | 12 => fixed zero (two a b n none (.mulf f) r)
  | 13 => fixed zero (two a b n none (.absf f) r)
  | _ => .error .undefinedInstruction

/-- The 3-byte formats, by bits 7:4 of the first byte (R181). -/
def decode3 (hi w : Nat) (r : List Byte) : Decoded :=
  match hi with
  | 0 => decode0E w r
  | 1 => decode1E w r
  | 2 => decode2E 0 w r
  | 3 => decode3E w r
  | 4 => decode4E w r
  | 6 => decode2E 1 w r
  | 10 => decode2E 2 w r
  | 11 => decodeBE w r
  | 12 => decodeCE w r
  | 14 => decode2E 3 w r
  | _ => .error .undefinedInstruction

/-- The first byte names a 3-byte format (R181, R183). -/
def assigned3 (hi : Nat) : Bool := hi ≤ 4 || hi == 6 || (10 ≤ hi && hi ≤ 12) || hi == 14

/-- Custom instructions: only the first byte is decoded (R184, R491). -/
def decodeCustom (hi : Nat) (r : List Byte) : Decoded :=
  match hi with
  | 1 => .ok (.custom16, r)
  | 3 => .ok (.custom36, r)
  | 11 => .ok (.customB6, r)
  | _ => .error .undefinedInstruction

/-- The decoding algorithm (R183): the instruction at the head of the bytes, and the bytes after it. -/
def decode : List Byte → Decoded
  | [] => .error .truncated
  | b0 :: r =>
    let b := b0.toNat
    if b % 4 = 2 then
      match b / 4 % 4 with
      | 0 => decodeF1 (b / 16) r
      | 1 => decodeCustom (b / 16) r
      | 2 => decodeBcond (b / 16) r
      | _ =>
        if assigned3 (b / 16) then
          match r with
          | b1 :: b2 :: r' => decode3 (b / 16) (b + 256 * b1.toNat + 65536 * b2.toNat) r'
          | _ => .error .truncated
        else .error .undefinedInstruction
    else
      match r with
      | b1 :: r' =>
        let w := b + 256 * b1.toNat
        if b / 4 % 4 = 3 then decodeGQ (w / 16 % 8) (w % 4) (w / 128 % 16) (w / 2048 % 32) r'
        else decodeGG (w / 4 % 16) (w % 4) (w / 2048 % 32) (w / 64 % 32) r'
      | [] => .error .truncated

/-! ## The encoder -/

/-- The low byte of a number. -/
def byteOf (n : Nat) : Byte := BitVec.ofNat 8 n

/-- A displacement field (R140). -/
def encodeDisp : Disp → List Byte
  | .d1 v => [byteOf v.toNat]
  | .d2 v => [byteOf (128 + v.toNat / 256), byteOf v.toNat]
  | .d4 v => [byteOf (192 + v.toNat / 16777216), byteOf (v.toNat / 65536), byteOf (v.toNat / 256),
      byteOf v.toNat]

/-- n bytes, most-significant first (R141). -/
def encodeBig : Nat → Nat → List Byte
  | 0, _ => []
  | n + 1, v => byteOf (v / 256 ^ n) :: encodeBig n v

/-- The 5-bit code of a mode (R143). -/
def modeCode : Mode → Nat
  | .reg r => r.val
  | .regRel r _ => 8 + r.val
  | .frameRel _ _ => 16
  | .stackRel _ _ => 17
  | .staticRel _ _ => 18
  | .absolute _ => 21
  | .ext _ _ => 22
  | .tos => 23
  | .frame _ => 24
  | .stack _ => 25
  | .static _ => 26
  | .program _ => 27

/-- The displacements of a mode (R139). -/
def encodeMode : Mode → List Byte
  | .reg _ => []
  | .regRel _ d => encodeDisp d
  | .frameRel d1 d2 => encodeDisp d1 ++ encodeDisp d2
  | .stackRel d1 d2 => encodeDisp d1 ++ encodeDisp d2
  | .staticRel d1 d2 => encodeDisp d1 ++ encodeDisp d2
  | .absolute d => encodeDisp d
  | .ext d1 d2 => encodeDisp d1 ++ encodeDisp d2
  | .tos => []
  | .frame d => encodeDisp d
  | .stack d => encodeDisp d
  | .static d => encodeDisp d
  | .program d => encodeDisp d

/-- ss of a scale (R143). -/
def scaleCode : Scale → Nat
  | .b => 0
  | .w => 1
  | .d => 2
  | .q => 3

/-- The gen field of an operand (R143). -/
def genCode : Gen → Nat
  | .mode m => modeCode m
  | .scaled sc _ _ => 28 + scaleCode sc
  | .imm _ => 20

/-- The index byte of an operand, if it has one (R138). -/
def genIndex : Gen → List Byte
  | .scaled _ m x => [byteOf (8 * modeCode m + x.val)]
  | _ => []

/-- The extension of an operand whose immediate has n bytes (R139). -/
def genExt (n : Nat) : Gen → List Byte
  | .mode m => encodeMode m
  | .scaled _ m _ => encodeMode m
  | .imm v => encodeBig n v.toNat

/-- The code of a length (R134). -/
def lenCode : IntLen → Nat
  | .b => 0
  | .w => 1
  | .d => 3

/-- The code of a floating-point length (R135). -/
def fpCode : FpLen → Nat
  | .single => 1
  | .double => 0

/-- The code of a processor register (R70). -/
def procRegCode : ProcReg → Nat
  | .upsr => 0
  | .fp => 8
  | .sp => 9
  | .sb => 10
  | .psr => 13
  | .intbase => 14
  | .mod => 15

/-- The code of an MMU register (R481). -/
def mmuRegCode : MmuReg → Nat
  | .bpr0 => 0
  | .bpr1 => 1
  | .pf0 => 4
  | .pf1 => 5
  | .sc => 8
  | .msr => 10
  | .bcnt => 11
  | .ptb0 => 12
  | .ptb1 => 13
  | .eia => 15

/-- Two bytes of basic instruction, low byte first (R132). -/
def basic2 (w : Nat) : List Byte := [byteOf w, byteOf (w / 256)]

/-- Three bytes of basic instruction (R132). -/
def basic3 (w : Nat) : List Byte := [byteOf w, byteOf (w / 256), byteOf (w / 65536)]

/-- One operand's index byte and extension. -/
def tail1 (n : Nat) (g : Gen) : List Byte := genIndex g ++ genExt n g

/-- Two operands' index bytes and extensions (R130). -/
def tail2 (na nb : Nat) (a b : Gen) : List Byte := genIndex a ++ genIndex b ++ genExt na a ++ genExt nb b

/-- F-1 (R170). -/
def encodeF1 (op : Nat) : List Byte := [byteOf (16 * op + 2)]

/-- F-Bcond (R171). -/
def encodeBcond (cond : Nat) (d : Disp) : List Byte := byteOf (16 * cond + 10) :: encodeDisp d

/-- F-GQ (R172). -/
def encodeGQ (op q : Nat) (i : IntLen) (n : Nat) (g : Gen) : List Byte :=
  basic2 (lenCode i + 12 + 16 * op + 128 * q + 2048 * genCode g) ++ tail1 n g

/-- F-G (R173). -/
def encodeG (op : Nat) (i : IntLen) (n : Nat) (g : Gen) : List Byte := encodeGQ 7 op i n g

/-- F-GG (R175). -/
def encodeGG (op : Nat) (i : IntLen) (na nb : Nat) (a b : Gen) : List Byte :=
  basic2 (lenCode i + 4 * op + 64 * genCode b + 2048 * genCode a) ++ tail2 na nb a b

/-- F-4E, F-CE (R176, R178); `fb` is the first byte. -/
def encode4E (fb op ic na nb : Nat) (a b : Gen) : List Byte :=
  basic3 (fb + 256 * ic + 1024 * op + 16384 * genCode b + 524288 * genCode a) ++ tail2 na nb a b

/-- F-xE (R177). -/
def encode2E (fb b10 reg ic na nb : Nat) (a b : Gen) : List Byte :=
  basic3 (fb + 256 * ic + 1024 * b10 + 2048 * reg + 16384 * genCode b + 524288 * genCode a) ++ tail2 na nb a b

/-- F-0E (R174). -/
def encode0E (op ic short : Nat) : List Byte := basic3 (0x0E + 256 * ic + 1024 * op + 32768 * short)

/-- F-1E (R179). -/
def encode1E (op short : Nat) (g : Gen) (n : Nat) : List Byte :=
  basic3 (0x1E + 768 + 1024 * op + 32768 * short + 524288 * genCode g) ++ tail1 n g

/-- F-3E (R179). -/
def encode3E (op fc ic na nb : Nat) (a b : Gen) : List Byte :=
  basic3 (0x3E + 256 * ic + 1024 * fc + 2048 * op + 16384 * genCode b + 524288 * genCode a) ++ tail2 na nb a b

/-- F-BE (R179). -/
def encodeBE (op : Nat) (f : FpLen) (a b : Gen) : List Byte :=
  basic3 (0xBE + 256 * fpCode f + 1024 * op + 16384 * genCode b + 524288 * genCode a)
    ++ tail2 f.bytes f.bytes a b

/-- Option bits of a String instruction (R174). -/
def strOptCode (t : Nat) (o : StrOpt) : Nat :=
  t + (if o.backward then 2 else 0) + (match o.cond with
    | .none => 0
    | .while => 4
    | .until => 12)

/-- The bytes of an instruction (30_encoding.md). An immediate of an operand that admits none gets no bytes. -/
def encode : Instr → List Byte
  | .bsr d => encodeF1 0 ++ encodeDisp d
  | .ret d => encodeF1 1 ++ encodeDisp d
  | .cxp d => encodeF1 2 ++ encodeDisp d
  | .rxp d => encodeF1 3 ++ encodeDisp d
  | .rett d => encodeF1 4 ++ encodeDisp d
  | .reti => encodeF1 5
  | .save l => encodeF1 6 ++ [l]
  | .restore l => encodeF1 7 ++ [l]
  | .enter l d => encodeF1 8 ++ l :: encodeDisp d
  | .exit l => encodeF1 9 ++ [l]
  | .nop => encodeF1 10
  | .wait => encodeF1 11
  | .dia => encodeF1 12
  | .flag => encodeF1 13
  | .svc => encodeF1 14
  | .bpt => encodeF1 15
  | .beq d => encodeBcond 0 d
  | .bne d => encodeBcond 1 d
  | .bcs d => encodeBcond 2 d
  | .bcc d => encodeBcond 3 d
  | .bhi d => encodeBcond 4 d
  | .bls d => encodeBcond 5 d
  | .bgt d => encodeBcond 6 d
  | .ble d => encodeBcond 7 d
  | .bfs d => encodeBcond 8 d
  | .bfc d => encodeBcond 9 d
  | .blo d => encodeBcond 10 d
  | .bhs d => encodeBcond 11 d
  | .blt d => encodeBcond 12 d
  | .bge d => encodeBcond 13 d
  | .br d => encodeBcond 14 d
  | .addqi i q g => encodeGQ 0 q.toNat i 0 g
  | .cmpqi i q g => encodeGQ 1 q.toNat i i.bytes g
  | .spri i p g => encodeGQ 2 (procRegCode p) i 0 g
  | .acbi i q g d => encodeGQ 4 q.toNat i 0 g ++ encodeDisp d
  | .movqi i q g => encodeGQ 5 q.toNat i 0 g
  | .lpri i p g => encodeGQ 6 (procRegCode p) i i.bytes g
  | .seqi i g => encodeGQ 3 0 i 0 g
  | .snei i g => encodeGQ 3 1 i 0 g
  | .scsi i g => encodeGQ 3 2 i 0 g
  | .scci i g => encodeGQ 3 3 i 0 g
  | .shii i g => encodeGQ 3 4 i 0 g
  | .slsi i g => encodeGQ 3 5 i 0 g
  | .sgti i g => encodeGQ 3 6 i 0 g
  | .slei i g => encodeGQ 3 7 i 0 g
  | .sfsi i g => encodeGQ 3 8 i 0 g
  | .sfci i g => encodeGQ 3 9 i 0 g
  | .sloi i g => encodeGQ 3 10 i 0 g
  | .shsi i g => encodeGQ 3 11 i 0 g
  | .slti i g => encodeGQ 3 12 i 0 g
  | .sgei i g => encodeGQ 3 13 i 0 g
  | .cxpd g => encodeG 0 .d 0 g
  | .bicpsri i g => encodeG 2 i i.bytes g
  | .jump g => encodeG 4 .d 0 g
  | .bispsri i g => encodeG 6 i i.bytes g
  | .adjspi i g => encodeG 10 i i.bytes g
  | .jsr g => encodeG 12 .d 0 g
  | .casei i g => encodeG 14 i i.bytes g
  | .addi i a b => encodeGG 0 i i.bytes 0 a b
  | .cmpi i a b => encodeGG 1 i i.bytes i.bytes a b
  | .bici i a b => encodeGG 2 i i.bytes 0 a b
  | .addci i a b => encodeGG 4 i i.bytes 0 a b
  | .movi i a b => encodeGG 5 i i.bytes 0 a b
  | .ori i a b => encodeGG 6 i i.bytes 0 a b
  | .subi i a b => encodeGG 8 i i.bytes 0 a b
  | .addr a b => encodeGG 9 .d 0 0 a b
  | .lxpd d1 d2 b => encodeGG 9 .d 0 0 (.mode (.ext d1 d2)) b
  | .andi i a b => encodeGG 10 i i.bytes 0 a b
  | .subci i a b => encodeGG 12 i i.bytes 0 a b
  | .tbiti i a b => encodeGG 13 i i.bytes 0 a b
  | .xori i a b => encodeGG 14 i i.bytes 0 a b
  | .movsi i o => encode0E 0 (lenCode i) (strOptCode 0 o)
  | .movst o => encode0E 0 0 (strOptCode 1 o)
  | .cmpsi i o => encode0E 1 (lenCode i) (strOptCode 0 o)
  | .cmpst o => encode0E 1 0 (strOptCode 1 o)
  | .setcfg c => encode0E 2 3 c.toNat
  | .skpsi i o => encode0E 3 (lenCode i) (strOptCode 0 o)
  | .skpst o => encode0E 3 0 (strOptCode 1 o)
  | .roti i a b => encode4E 0x4E 0 (lenCode i) 1 0 a b
  | .ashi i a b => encode4E 0x4E 1 (lenCode i) 1 0 a b
  | .cbiti i a b => encode4E 0x4E 2 (lenCode i) i.bytes 0 a b
  | .cbitii i a b => encode4E 0x4E 3 (lenCode i) i.bytes 0 a b
  | .lshi i a b => encode4E 0x4E 5 (lenCode i) 1 0 a b
  | .sbiti i a b => encode4E 0x4E 6 (lenCode i) i.bytes 0 a b
  | .sbitii i a b => encode4E 0x4E 7 (lenCode i) i.bytes 0 a b
  | .negi i a b => encode4E 0x4E 8 (lenCode i) i.bytes 0 a b
  | .noti i a b => encode4E 0x4E 9 (lenCode i) i.bytes 0 a b
  | .subpi i a b => encode4E 0x4E 11 (lenCode i) i.bytes 0 a b
  | .absi i a b => encode4E 0x4E 12 (lenCode i) i.bytes 0 a b
  | .comi i a b => encode4E 0x4E 13 (lenCode i) i.bytes 0 a b
  | .ibiti i a b => encode4E 0x4E 14 (lenCode i) i.bytes 0 a b
  | .addpi i a b => encode4E 0x4E 15 (lenCode i) i.bytes 0 a b
  | .exti i x a b d => encode2E 0x2E 0 x.val (lenCode i) 0 0 a b ++ encodeDisp d
  | .indexi i x a b => encode2E 0x2E 1 x.val (lenCode i) i.bytes i.bytes a b
  | .cvtp x a b => encode2E 0x6E 0 x.val 3 0 0 a b
  | .ffsi i a b => encode2E 0x6E 1 0 (lenCode i) i.bytes 0 a b
  | .insi i x a b d => encode2E 0xAE 0 x.val (lenCode i) i.bytes 0 a b ++ encodeDisp d
  | .movsui i a b => encode2E 0xAE 1 1 (lenCode i) 0 0 a b
  | .movusi i a b => encode2E 0xAE 1 3 (lenCode i) 0 0 a b
  | .checki i x a b => encode2E 0xEE 0 x.val (lenCode i) 0 i.bytes a b
  | .movmi i a b d => encode4E 0xCE 0 (lenCode i) 0 0 a b ++ encodeDisp d
  | .cmpmi i a b d => encode4E 0xCE 1 (lenCode i) 0 0 a b ++ encodeDisp d
  | .inssi i a b o l => encode4E 0xCE 2 (lenCode i) i.bytes 0 a b ++ [byteOf (32 * o.toNat + l.toNat)]
  | .extsi i a b o l => encode4E 0xCE 3 (lenCode i) 0 0 a b ++ [byteOf (32 * o.toNat + l.toNat)]
  | .movxbw a b => encode4E 0xCE 4 0 1 0 a b
  | .movzbw a b => encode4E 0xCE 5 0 1 0 a b
  | .movzid i a b => encode4E 0xCE 6 (lenCode i) i.bytes 0 a b
  | .movxid i a b => encode4E 0xCE 7 (lenCode i) i.bytes 0 a b
  | .muli i a b => encode4E 0xCE 8 (lenCode i) i.bytes 0 a b
  | .meii i a b => encode4E 0xCE 9 (lenCode i) i.bytes 0 a b
  | .deii i a b => encode4E 0xCE 11 (lenCode i) i.bytes 0 a b
  | .quoi i a b => encode4E 0xCE 12 (lenCode i) i.bytes 0 a b
  | .remi i a b => encode4E 0xCE 13 (lenCode i) i.bytes 0 a b
  | .modi i a b => encode4E 0xCE 14 (lenCode i) i.bytes 0 a b
  | .divi i a b => encode4E 0xCE 15 (lenCode i) i.bytes 0 a b
  | .rdval g => encode1E 0 0 g 0
  | .wrval g => encode1E 1 0 g 0
  | .lmr m g => encode1E 2 (mmuRegCode m) g 4
  | .smr m g => encode1E 3 (mmuRegCode m) g 0
  | .movif i f a b => encode3E 0 (fpCode f) (lenCode i) i.bytes 0 a b
  | .lfsr a => encode3E 1 1 3 4 0 a (.mode (.reg 0))
  | .movlf a b => encode3E 2 1 2 8 0 a b
  | .movfl a b => encode3E 3 0 3 4 0 a b
  | .roundfi f i a b => encode3E 4 (fpCode f) (lenCode i) f.bytes 0 a b
  | .truncfi f i a b => encode3E 5 (fpCode f) (lenCode i) f.bytes 0 a b
  | .sfsr b => encode3E 6 1 3 0 0 (.mode (.reg 0)) b
  | .floorfi f i a b => encode3E 7 (fpCode f) (lenCode i) f.bytes 0 a b
  | .addf f a b => encodeBE 0 f a b
  | .movf f a b => encodeBE 1 f a b
  | .cmpf f a b => encodeBE 2 f a b
  | .subf f a b => encodeBE 4 f a b
  | .negf f a b => encodeBE 5 f a b
  | .divf f a b => encodeBE 8 f a b
  | .mulf f a b => encodeBE 12 f a b
  | .absf f a b => encodeBE 13 f a b
  | .fpuIllegal0011 hi lo => basic3 (0xBE + 256 * lo.toNat + 1024 * 3 + 16384 * hi.toNat)
  | .fpuIllegal1001 hi lo => basic3 (0xBE + 256 * lo.toNat + 1024 * 9 + 16384 * hi.toNat)
  | .custom16 => [byteOf 0x16]
  | .custom36 => [byteOf 0x36]
  | .customB6 => [byteOf 0xB6]

/-- The length of an instruction in bytes: the sum of its parts (R131). -/
def instrLength (i : Instr) : Nat := (encode i).length

/-- The longest legal instruction (R131). -/
def maxLength : Nat := 25

/-- n bytes of a number, least-significant first. -/
def littleBytes : Nat → Nat → List Byte
  | 0, _ => []
  | n + 1, w => byteOf w :: littleBytes n (w / 256)

/-- The instruction the decoder reads from the bits `w` of a row of `nbits` bits, zeros above them. -/
def decodeTableWord (nbits w : Nat) : Option Instr :=
  match decode (littleBytes maxLength (w % 2 ^ nbits)) with
  | .ok (i, _) => some i
  | .error _ => none

end Sys2Proof
end

