-- ==== Sys2Proof/Machine/State.lean ====
section
/-! DEFINITION. The machine's state as plain data, its faults and refusals, and its value after reset
(10_state.md, 60_exceptions.md R502). -/
namespace Sys2Proof.Machine

/-- Memory: the bytes that differ from what an unlisted address reads as, addresses rising (20_memory.md R80). -/
abbrev Memory := List Host.Cell

/-- The ten Memory Management registers, 32 bits each (R60, R66; BCNT: log 12). -/
structure MmuRegs where
  msr : Dword
  ptb0 : Dword
  ptb1 : Dword
  eia : Dword
  bpr0 : Dword
  bpr1 : Dword
  bcnt : Dword
  pf0 : Dword
  pf1 : Dword
  sc : Dword
deriving DecidableEq, Repr

/-- What the MMU answers to RDVAL or WRVAL (D10). -/
inductive MmuAnswer where
  | ok
  | denied
  | level1Invalid
deriving DecidableEq, Repr

/-- The reference of a step that the MMU aborts (R105, D10; log 10). Reads and writes are those of data and of devices;
a reference is named by what the step has done before it. -/
inductive AbortPoint where
  /-- The fetch of the instruction. -/
  | fetch
  /-- The first read that covers the byte at this address once the step has made this many writes and pops. -/
  | read (moves : Nat) (byte : Nat)
  /-- The write that follows this many writes of the step. -/
  | write (writes : Nat)
deriving DecidableEq, Repr

/-- What cuts a step short (R105, R501; logs 10 and 27). -/
structure Cut where
  /-- The memory reference that the MMU aborts, where it aborts one (R105, R524). -/
  abort : Option AbortPoint
  /-- The number of writes of the step after which Reset arrives, where it arrives (R501): 0 before the step does
  anything, at its end where it makes no more. -/
  reset : Option Nat
deriving DecidableEq, Repr

/-- Nothing cuts the step short. -/
def Cut.never : Cut := { abort := none, reset := none }

/-- What the environment supplies to one step (R14, R502, R506, D2, D10). -/
structure Input where
  /-- A falling edge on NMI (R502). -/
  nmiEdge : Bool
  /-- The level of INT (R502). -/
  int : Bool
  /-- The byte an Interrupt Acknowledge read of 0xFFFE00 returns (R506). -/
  ackByte : Byte
  /-- The byte an End of Interrupt read of 0xFFFE00 returns (R531). -/
  eoiByte : Byte
  /-- The byte a cascaded unit returns at its Cascade Address (R508), or none where that address is memory's. -/
  cascadeByte : Option Byte
  /-- The MMU's answer to RDVAL or WRVAL (R483, R484). -/
  mmu : MmuAnswer
  /-- What cuts the step short: the RST signal (R501) and an abort by the MMU (R524). -/
  cut : Cut
deriving DecidableEq, Repr

/-- An environment that asks for nothing. -/
def quiet : Input :=
  { nmiEdge := false, int := false, ackByte := 0, eoiByte := 0, cascadeByte := none, mmu := .ok, cut := .never }

/-- The machine. -/
structure State where
  /-- R0 to R7 (R20). -/
  r : Vector Dword 8
  /-- PC (R25). -/
  pc : AddrReg
  /-- SB (R30). -/
  sb : AddrReg
  /-- FP (R27). -/
  fp : AddrReg
  /-- SP0 (R26). -/
  sp0 : AddrReg
  /-- SP1 (R26). -/
  sp1 : AddrReg
  /-- INTBASE (R28). -/
  intbase : AddrReg
  /-- MOD (R29). -/
  mod : Word
  /-- PSR (R40). -/
  psr : Word
  /-- CFG: C 3, M 2, F 1, I 0 (R54). -/
  cfg : BitVec 4
  /-- F0 to F7 (R55). -/
  f : Vector Dword 8
  /-- FSR (R56). -/
  fsr : Dword
  /-- The Memory Management registers (R60). -/
  mmu : MmuRegs
  /-- Memory (R80). -/
  mem : Memory
  /-- The waiting state (R67 item 10). -/
  waiting : Bool
  /-- The latched Non-Maskable Interrupt (R67 item 2). -/
  nmiPending : Bool
  /-- The Interlocked Operation pin during the last step (R112; log 13). -/
  interlock : Bool
  /-- The environment's inputs, one for each coming step; quiet where the list ends (log 8). -/
  env : List Input
  /-- What is still to cut the step under way short, nothing between steps: the model's own (logs 10 and 27). -/
  cut : Cut
  /-- How many free values have been drawn: the model's own (log 6). -/
  freeCount : Nat
deriving DecidableEq, Repr

/-- Why the machine stops. Each is the treatment `fault` of 93_implementation_defined.md; all are safe. -/
inductive Fault where
  /-- An access or a fetch outside 0 to 0xFFFFFF, or a negative Absolute address: any operand (U2). Safe. -/
  | addressOutOfRange
  /-- An ordinary access that covers an acknowledge address (U34, D11): any operand. Safe. -/
  | deviceAddress
  /-- MOD of 0xFFF1 to 0xFFFF used as an address: External mode, CXP, CXPD, RXP, RETT, RETI, exceptions (U3). Safe. -/
  | reservedModule
  /-- A displacement outside its range: fetch (U4). Safe. -/
  | displacementRange
  /-- An odd register for a 2i or a double-precision operand (U5). Safe. -/
  | oddRegisterPair
  /-- A bit or field not inside its base register: bit and bit field instructions (U23). Safe. -/
  | bitOutsideRegister
  /-- A memory field reaching past four bytes: bit field instructions (U24). Safe. -/
  | fieldTooWide
  /-- A String instruction with R0 of 0x80000000 or more (U25). Safe. -/
  | negativeCount
  /-- An acknowledge or End of Interrupt byte in -128 to -17: interrupts, RETI (U28). Safe. -/
  | reservedVector
  /-- The MMU aborts a reference of an exception's entry sequence, for which the manual gives no effect (R526; log 35):
  traps and interrupts. Safe. -/
  | entryAborted
deriving DecidableEq, Repr

/-- What the model gives no meaning: the treatment `refuse` of 93_implementation_defined.md. All are safe. -/
inductive Refusal where
  /-- An instruction without a meaning: none is left. Safe. -/
  | notModelled (mnemonic : String)
  /-- An undefined encoding: fetch, or a term no encoding gives (U6 to U12, U14). Safe. -/
  | encoding (e : DecodeError)
  /-- A field length outside 1 to 32: EXTi, INSi (U19). Safe. -/
  | fieldLength
  /-- A block length no element count gives: MOVMi, CMPMi (U26). Safe. -/
  | blockLength
  /-- SETCFG of a device that is not attached (U30). Safe. -/
  | deviceAbsent
  /-- A custom instruction executed by the Custom slave: CFG.C = 1 (U27). Safe. -/
  | customSlave
deriving DecidableEq, Repr

/-- The machine right after Reset (R68, R560). Where R68 says "undefined", the default environment of
95_test_vectors.md section 0: DESIGN CHOICE (log 1), unsafe. -/
def State.reset : State :=
  { r := Vector.replicate 8 0
    pc := 0
    sb := 0x1000
    fp := 0x2000
    sp0 := 0x3000
    sp1 := 0x3000
    intbase := 0
    mod := 0
    psr := 0
    cfg := 2
    f := Vector.replicate 8 0
    fsr := 0
    mmu := { msr := 0, ptb0 := 0, ptb1 := 0, eia := 0, bpr0 := 0, bpr1 := 0, bcnt := 0, pf0 := 0, pf1 := 0, sc := 0 }
    mem := []
    waiting := false
    nmiPending := false
    interlock := false
    env := []
    cut := .never
    freeCount := 0 }

end Sys2Proof.Machine
end

