-- ==== Sys2Proof/Machine/Flags.lean ====
section
/-! DEFINITION. The flags of PSR, CFG and FSR, the integer views of operands, and every flag computation
(10_state.md R40 to R58, 40_integer.md R200). -/
namespace Sys2Proof.Machine

/-! ## PSR -/

/-- The implemented PSR bits (R40). -/
inductive Flag where
  | c | t | l | f | z | n | u | s | p | i
deriving DecidableEq, Repr

/-- Bit positions (R40). -/
def flagBit : Flag → Nat
  | .c => 0
  | .t => 1
  | .l => 2
  | .f => 5
  | .z => 6
  | .n => 7
  | .u => 8
  | .s => 9
  | .p => 10
  | .i => 11

/-- One flag of a PSR value. -/
def flag (w : Word) (k : Flag) : Bool := w.getLsbD (flagBit k)

/-- A PSR value with one flag written. -/
def putFlag (w : Word) (k : Flag) (b : Bool) : Word :=
  if b then w ||| (1#16 <<< flagBit k) else w &&& ~~~(1#16 <<< flagBit k)

/-- The implemented bits of PSR; the others read as 0 and ignore writes (R41, D4; log 5). -/
def psrMask : Word := 0x0FE7

/-- One flag of the machine. -/
def State.flag (s : State) (k : Flag) : Bool := Machine.flag s.psr k

/-- Write one flag. -/
def State.setFlag (s : State) (k : Flag) (b : Bool) : State := { s with psr := putFlag s.psr k b }

/-- Load the PSR, implemented bits only (R41). -/
def State.loadPsr (s : State) (v : Nat) : State := { s with psr := BitVec.ofNat 16 v &&& psrMask }

/-- Load the low byte of the PSR (UPSR), implemented bits only (R42). -/
def State.loadUpsr (s : State) (v : Nat) : State :=
  { s with psr := BitVec.ofNat 16 (s.psr.toNat / 256 * 256 + v % 256) &&& psrMask }

/-! ## CFG and FSR -/

/-- CFG.I (R54). -/
def State.cfgI (s : State) : Bool := s.cfg.getLsbD 0
/-- CFG.F (R54). -/
def State.cfgF (s : State) : Bool := s.cfg.getLsbD 1
/-- CFG.M (R54). -/
def State.cfgM (s : State) : Bool := s.cfg.getLsbD 2
/-- CFG.C (R54). -/
def State.cfgC (s : State) : Bool := s.cfg.getLsbD 3

/-- FSR underflow trap enable (R56). -/
def fsrUen (v : Dword) : Bool := v.getLsbD 3
/-- FSR inexact trap enable (R56). -/
def fsrIen (v : Dword) : Bool := v.getLsbD 5
/-- FSR rounding mode (R57). -/
def fsrRm (v : Dword) : Nat := v.toNat / 128 % 4

/-- FSR with the Trap Type field written (R58). -/
def fsrWithTt (v : Dword) (tt : Nat) : Dword := (v &&& ~~~(7#32)) ||| BitVec.ofNat 32 (tt % 8)
/-- FSR with the sticky Underflow flag set (R58). -/
def fsrSetUf (v : Dword) : Dword := v ||| 0x10#32
/-- FSR with the sticky Inexact flag set (R58). -/
def fsrSetIf (v : Dword) : Dword := v ||| 0x40#32
/-- The implemented bits of FSR (R56, D4; log 5). -/
def fsrMask : Dword := 0xFFFF

/-! ## Integer views -/

/-- sext_N of an N-bit value given as a natural number (R10). -/
def sext (bits v : Nat) : Int := if v % 2 ^ bits < 2 ^ (bits - 1) then ((v % 2 ^ bits : Nat) : Int)
  else ((v % 2 ^ bits : Nat) : Int) - ((2 ^ bits : Nat) : Int)

/-- trunc_N of an integer (R10). -/
def trunc (bits : Nat) (v : Int) : Nat := (v % ((2 ^ bits : Nat) : Int)).toNat

/-- An integer that N bits hold as a two's-complement number. -/
def fits (bits : Nat) (v : Int) : Bool :=
  decide (-((2 ^ (bits - 1) : Nat) : Int) ≤ v) && decide (v < ((2 ^ (bits - 1) : Nat) : Int))

/-! ## Flag computations -/

/-- C and F after an addition of `a`, `b` and a carry in (R200). -/
def addFlags (bits a b cin : Nat) (w : Word) : Word :=
  putFlag (putFlag w .c (decide (2 ^ bits ≤ a + b + cin))) .f (!fits bits (sext bits a + sext bits b + cin))

/-- C and F after `d - a - bin` (R200). -/
def subFlags (bits d a bin : Nat) (w : Word) : Word :=
  putFlag (putFlag w .c (decide (d < a + bin))) .f (!fits bits (sext bits d - sext bits a - bin))

/-- Z, N and L after comparing src1 with src2 (R229). -/
def cmpFlags (bits a b : Nat) (w : Word) : Word :=
  putFlag (putFlag (putFlag w .z (decide (a = b))) .n (decide (sext bits a > sext bits b))) .l (decide (a > b))

/-- The conditions of Bcond and Scondi (R401). -/
inductive Cond where
  | eq | ne | cs | cc | hi | ls | gt | le | fs | fc | lo | hs | lt | ge
deriving DecidableEq, Repr

/-- When a condition holds (R401). -/
def condTrue (k : Cond) (w : Word) : Bool :=
  match k with
  | .eq => flag w .z
  | .ne => !flag w .z
  | .cs => flag w .c
  | .cc => !flag w .c
  | .hi => flag w .l
  | .ls => !flag w .l
  | .gt => flag w .n
  | .le => !flag w .n
  | .fs => flag w .f
  | .fc => !flag w .f
  | .lo => !flag w .z && !flag w .l
  | .hs => flag w .z || flag w .l
  | .lt => !flag w .z && !flag w .n
  | .ge => flag w .z || flag w .n

end Sys2Proof.Machine
end

