-- ==== Sys2Proof/Machine/Ops.lean ====
section
/-! DEFINITION. The named operations over memory, registers and stacks, taking an exception and returning from one
(20_memory.md, 60_exceptions.md). -/
namespace Sys2Proof.Machine

/-! ## Results -/

/-- Why an operation stops. -/
inductive Stop where
  | fault (f : Fault)
  | refuse (r : Refusal)
  /-- The MMU aborts a memory reference made in state `s` (R524). -/
  | abort (s : State)
  /-- Reset arrives in state `s` (R501). -/
  | reset (s : State)
deriving DecidableEq, Repr

/-- An operation answers a value or stops. -/
abbrev Res (α : Type) := Except Stop α

/-- Reset as an event: every register as after Reset, memory as it is (R501, R68; log 27). -/
def State.resetEvent (s : State) : State :=
  { State.reset with mem := s.mem, env := s.env, freeCount := s.freeCount }

/-- The outcome of a result. An abort that no instruction takes is one of an entry sequence (R526; log 35). -/
def finish (x : Res State) : Host.Outcome State Fault Refusal :=
  match x with
  | .ok s => .next s
  | .error (.fault f) => .fault f
  | .error (.refuse r) => .refused r
  | .error (.abort _) => .fault .entryAborted
  | .error (.reset s) => .next s.resetEvent

/-- Stop with a fault. -/
def faultWith {α : Type} (f : Fault) : Res α := .error (.fault f)

/-- Stop with a refusal. -/
def refuseWith {α : Type} (r : Refusal) : Res α := .error (.refuse r)

/-! ## Memory as a list -/

/-- Addresses from `lo` up, strictly rising, inside the space, none listed with the unlisted value. -/
def Memory.wfFrom : Nat → Memory → Bool
  | _, [] => true
  | lo, (a, b) :: m =>
    decide (lo ≤ a) && decide (a < Config.memSize) && decide (b ≠ Config.unlistedByte) && Memory.wfFrom (a + 1) m

/-- The canonical form of memory. -/
def Memory.wf (m : Memory) : Bool := Memory.wfFrom 0 m

/-- One byte of memory. -/
def Memory.read : Memory → Nat → Byte
  | [], _ => Config.unlistedByte
  | (a, b) :: m, x => if x = a then b else Memory.read m x

/-- Memory with one byte written, still canonical. -/
def Memory.write : Memory → Nat → Byte → Memory
  | [], x, v => if v = Config.unlistedByte then [] else [(x, v)]
  | (a, b) :: m, x, v =>
    if x < a then (if v = Config.unlistedByte then (a, b) :: m else (x, v) :: (a, b) :: m)
    else if x = a then (if v = Config.unlistedByte then m else (x, v) :: m)
    else (a, b) :: Memory.write m x v

/-- The n-byte little-endian value at an address (R82). -/
def Memory.readLE (m : Memory) : Nat → Nat → Nat
  | _, 0 => 0
  | a, n + 1 => (Memory.read m a).toNat + 256 * Memory.readLE m (a + 1) n

/-- Memory with the low n bytes of a value stored little-endian (R82). -/
def Memory.writeLE : Memory → Nat → Nat → Nat → Memory
  | m, _, 0, _ => m
  | m, a, n + 1, v => Memory.writeLE (Memory.write m a (BitVec.ofNat 8 v)) (a + 1) n (v / 256)

/-- Memory with bytes stored from an address up. -/
def Memory.writeBytes : Memory → Nat → List Byte → Memory
  | m, _, [] => m
  | m, a, b :: r => Memory.writeBytes (Memory.write m a b) (a + 1) r

/-! ## Free values -/

/-- Draw a free value (log 6). -/
def State.fresh (s : State) : Quad × State := (Config.freeValue s.freeCount, { s with freeCount := s.freeCount + 1 })

/-- Draw a free number below 2^bits. -/
def State.freshNat (s : State) (bits : Nat) : Nat × State := (s.fresh.1.toNat % 2 ^ bits, s.fresh.2)

/-! ## Accesses -/

/-- The n bytes at `a` cover the address `x`. -/
def covers (a n x : Nat) : Bool := decide (a ≤ x) && decide (x < a + n)

/-- An ordinary access of n bytes at `a` is inside the space (U2) and covers no device address (U34; log 3). -/
def checkAccess (a n : Nat) : Res Unit :=
  if Config.memSize < a + n then faultWith .addressOutOfRange
  else if covers a n Config.ackAddr || covers a n Config.nmiAckAddr then faultWith .deviceAddress
  else .ok ()

/-- The MMU aborts a read of n bytes at `a` (R105; log 10). -/
def State.abortsRead (s : State) (a n : Nat) : Bool :=
  match s.cut.abort with
  | some (.read 0 x) => covers a n x
  | _ => false

/-- The MMU aborts the next write (R105; log 10). -/
def State.abortsWrite (s : State) : Bool := decide (s.cut.abort = some (.write 0))

/-- The reference still to be aborted once a write is made. -/
def AbortPoint.wrote : AbortPoint → AbortPoint
  | .fetch => .fetch
  | .read k x => .read (k - 1) x
  | .write k => .write (k - 1)

/-- The reference still to be aborted once a value is popped. -/
def AbortPoint.popped : AbortPoint → AbortPoint
  | .fetch => .fetch
  | .read k x => .read (k - 1) x
  | .write k => .write k

/-- What is still to come once a write is made. -/
def Cut.wrote (c : Cut) : Cut := { abort := c.abort.map AbortPoint.wrote, reset := c.reset.map (· - 1) }

/-- What is still to come once a value is popped. -/
def Cut.popped (c : Cut) : Cut := { c with abort := c.abort.map AbortPoint.popped }

/-- MemRead (R10, R82). An abort comes before the fault of an address outside memory or a device's (DESIGN CHOICE: R105
and U2 do not say which wins; log 37, safe). -/
def State.memRead (s : State) (a : Dword) (n : Nat) : Res Nat :=
  if s.abortsRead a.toNat n then .error (.abort s)
  else do
    checkAccess a.toNat n
    .ok (s.mem.readLE a.toNat n)

/-- A one-byte read of a device, which answers the byte `b` of the environment (R506, R531): the MMU may abort it
(R105; log 10). -/
def State.deviceRead (s : State) (a : Nat) (b : Byte) : Res Byte :=
  if s.abortsRead a 1 then .error (.abort s) else .ok b

/-- MemWrite (R10, R82): a write that is aborted, or that Reset comes before, stores none of its bytes (R501, D12; logs
27 and 34). Reset and an abort come before the fault of an address (DESIGN CHOICE: log 37, safe). -/
def State.memWrite (s : State) (a : Dword) (n v : Nat) : Res State :=
  if s.cut.reset = some 0 then .error (.reset s)
  else if s.abortsWrite then .error (.abort s)
  else do
    checkAccess a.toNat n
    .ok { s with mem := s.mem.writeLE a.toNat n v, cut := s.cut.wrote }

/-! ## Registers -/

/-- Bytes 0 to n-1 of a register with the rest kept (R21). -/
def mergeLow (old : Dword) (n v : Nat) : Dword :=
  BitVec.ofNat 32 (old.toNat / 256 ^ n * 256 ^ n + v % 256 ^ n)

/-- The low n bytes of R[k] (R21). -/
def State.regLow (s : State) (k : Fin 8) (n : Nat) : Nat := s.r[k].toNat % 256 ^ n

/-- R[k] with its low n bytes written (R21). -/
def State.setRegLow (s : State) (k : Fin 8) (n v : Nat) : State := { s with r := s.r.set k (mergeLow s.r[k] n v) }

/-- R[k] written whole. -/
def State.setReg (s : State) (k : Fin 8) (v : Dword) : State := { s with r := s.r.set k v }

/-- F[k] written whole. -/
def State.setFReg (s : State) (k : Fin 8) (v : Dword) : State := { s with f := s.f.set k v }

/-- A 24-bit register read as a 32-bit value (R24). -/
def ext24 (v : AddrReg) : Dword := v.setWidth 32

/-- What a load of a 24-bit register keeps of a number (R24). -/
def low24 (v : Nat) : AddrReg := BitVec.ofNat 24 v

/-- The stack pointer PSR.S selects (R26). -/
def State.sp (s : State) : AddrReg := if s.flag .s then s.sp1 else s.sp0

/-- Load the stack pointer PSR.S selects. -/
def State.setSp (s : State) (v : AddrReg) : State := if s.flag .s then { s with sp1 := v } else { s with sp0 := v }

/-- The sum of a 24-bit register and a number: a free value where it leaves the implemented range (R24; log 4). -/
def State.sum24 (s : State) (v : AddrReg) (k : Int) : AddrReg × State :=
  let t : Int := (v.toNat : Int) + k
  if 0 ≤ t ∧ t < 16777216 then (BitVec.ofNat 24 t.toNat, s)
  else (BitVec.ofNat 24 s.fresh.1.toNat, s.fresh.2)

/-- Add a number to the selected stack pointer. -/
def State.addSp (s : State) (k : Int) : State :=
  let (v, s1) := s.sum24 s.sp k
  s1.setSp v

/-- Load PC with the sum of PC and a number (R402, R406). -/
def State.branch (s : State) (k : Int) : State :=
  let (v, s1) := s.sum24 s.pc k
  { s1 with pc := v }

/-- Load PC with a computed 32-bit value (R24, R400). -/
def State.goto (s : State) (a : Dword) : State := { s with pc := low24 a.toNat }

/-- The address of the next sequential instruction (R25, R131). -/
def State.nextPc (s : State) (i : Instr) : AddrReg × State := s.sum24 s.pc (instrLength i : Int)

/-- Pass control to the next sequential instruction (R25, R131). -/
def State.advance (s : State) (i : Instr) : State := s.branch (instrLength i : Int)

/-! ## Stacks -/

/-- Push (R88). A push below address 0 faults (U2), before any abort or Reset at its write (log 37). -/
def State.push (s : State) (n v : Nat) : Res State :=
  if s.sp.toNat < n then faultWith .addressOutOfRange
  else
    let a := BitVec.ofNat 24 (s.sp.toNat - n)
    (s.setSp a).memWrite (ext24 a) n v

/-- Pop (R88). -/
def State.pop (s : State) (n : Nat) : Res (Nat × State) := do
  let v ← s.memRead (ext24 s.sp) n
  .ok (v, ({ s with cut := s.cut.popped } : State).addSp n)

/-! ## Modules -/

/-- MOD as an address; 0xFFF1 to 0xFFFF are reserved (R29, R92, U3). -/
def moduleAddr (m : Word) : Res Dword :=
  if 0xFFF1 ≤ m.toNat then faultWith .reservedModule else .ok (m.setWidth 32)

/-- The Link Table entry of the current module (R93, R150). -/
def State.linkEntry (s : State) (k : Int) : Res Nat := do
  let m ← moduleAddr s.mod
  let lb ← s.memRead (m + 4#32) 4
  s.memRead (BitVec.ofNat 32 lb + BitVec.ofInt 32 (4 * k)) 4

/-- Load MOD and, from its descriptor, SB (R30). -/
def State.loadModule (s : State) (m : Word) : Res State := do
  let a ← moduleAddr m
  let b ← s.memRead a 4
  .ok { s with mod := m, sb := low24 b }

/-- Enter the procedure of a descriptor: MOD, SB and PC (R94, R411, R519). -/
def State.enterProcedure (s : State) (d : Nat) : Res State := do
  let s1 ← s.loadModule (BitVec.ofNat 16 d)
  let a ← moduleAddr s1.mod
  let pb ← s1.memRead (a + 8#32) 4
  .ok (s1.goto (BitVec.ofNat 32 (pb + d / 65536)))

/-! ## Taking an exception -/

/-- Traps taken as R521 says. -/
inductive TrapKind where
  | fpu | ill | svc | dvz | flg | bpt | und
deriving DecidableEq, Repr

/-- Vectors (R504). -/
def trapVector : TrapKind → Nat
  | .fpu => 3
  | .ill => 4
  | .svc => 5
  | .dvz => 6
  | .flg => 7
  | .bpt => 8
  | .und => 10

/-- PSR on entry to a service procedure: the given bits cleared (R523). -/
def clearFlags (w : Word) : List Flag → Word
  | [] => w
  | k :: ks => clearFlags (putFlag w k false) ks

/-- The Service sequence (R519): PSR.S is 0 already, so the pushes go to SP0. -/
def State.service (s : State) (vector : Nat) (ra : AddrReg) : Res State := do
  let s1 ← s.push 2 s.mod.toNat
  let s2 ← s1.push 4 ra.toNat
  let d ← s2.memRead (ext24 s2.intbase + BitVec.ofNat 32 (4 * vector)) 4
  s2.enterProcedure d

/-- An entry sequence: an abort of one of its references, an acknowledge or cascaded read among them, stops (DESIGN
CHOICE: R526 leaves it open; log 35, safe), and Reset ends it (R501). -/
def entry (x : Res State) : Res State :=
  match x with
  | .error (.abort _) => faultWith .entryAborted
  | .error (.reset c) => .ok c.resetEvent
  | x => x

/-- Taking an exception: save `image` of the PSR on SP0, set the PSR, and Service (R511, R519). -/
def State.takeException (s : State) (image psr : Word) (vector : Nat) (ra : AddrReg) : Res State :=
  entry do
    let s1 ← ({ s with psr := psr }).push 2 image.toNat
    s1.service vector ra

/-- Trap sequence for FPU, ILL, SVC, DVZ, FLG, BPT and UND, from the state the instruction started in (R521). -/
def State.trap (s : State) (t : TrapKind) : Res State :=
  s.takeException s.psr (clearFlags s.psr [.s, .u, .p, .t]) (trapVector t) s.pc

/-- Abort sequence, from the state the instruction started in (R524). -/
def State.abort (s : State) : Res State :=
  let w := putFlag s.psr .p false
  s.takeException w (clearFlags w [.s, .u, .t, .i]) 2 s.pc

/-- The condition flags C, L, F, Z and N of PSR. -/
def conditionFlags : Word := 0x00E5

/-- What an instruction that started in `s` leaves where a reference it makes in state `c` is aborted: the stack pointers
and all that its re-execution rests on as at its start (R524, R104), memory as it has written it so far. What it has
written of the general registers and the condition flags the spec leaves open: each is free to be the old or the new
one (log 34). The Interlocked Operation pin is released as at its start, also where SBITIi or CBITIi is aborted at its
read or its rewrite (DESIGN CHOICE: R112 does not say; log 13, unsafe for a claim about the pin). -/
def State.aborted (s c : State) : State :=
  let s1 : State := { s with mem := c.mem, freeCount := c.freeCount, cut := { abort := none, reset := c.cut.reset } }
  if c.r = s.r ∧ c.psr = s.psr then s1
  else
    let x := s1.fresh.1
    let m := (x >>> 8).setWidth 16 &&& conditionFlags
    { s1.fresh.2 with
      r := Vector.ofFn fun k => if x.getLsbD k.val then c.r[k] else s.r[k]
      psr := (s.psr &&& ~~~m) ||| (c.psr &&& m) }

/-- An instruction that started in `s` takes the Abort trap where one of its references is aborted (R524), and Reset ends
it with the writes it has made (R501). -/
def State.settle (s : State) (x : Res State) : Res State :=
  match x with
  | .error (.abort c) => (s.aborted c).abort
  | .error (.reset c) => .ok c.resetEvent
  | x => x

/-- The outcome of an instruction that started in `s`. -/
def State.run (s : State) (x : Res State) : Host.Outcome State Fault Refusal := finish (s.settle x)

/-- Trace trap sequence, at the end of an instruction (R522). -/
def State.traceTrap (s : State) : Res State :=
  let w := putFlag s.psr .p false
  s.takeException w (clearFlags w [.s, .u, .t]) 9 s.pc

/-- The environment's input to this step. -/
def State.input (s : State) : Input := s.env.headD quiet

/-- The Cascade Address for a negative acknowledge byte, which the cascaded unit is then read at (R508, R531). A byte
below -16 is reserved (U28). -/
def State.cascadeAddress (s : State) (byte : Byte) : Res Dword :=
  if byte.toInt < -16 then faultWith .reservedVector
  else do
    let a ← s.memRead (ext24 s.intbase + BitVec.ofInt 32 (4 * byte.toInt)) 4
    if Config.memSize ≤ a then faultWith .addressOutOfRange else .ok (BitVec.ofNat 32 a)

/-- The byte at a Cascade Address: the environment's, or memory's where the environment supplies none (R506, R508; log
25). -/
def State.cascadeRead (s : State) (a : Dword) : Res Nat :=
  match s.input.cascadeByte with
  | some b => do
    let b ← s.deviceRead a.toNat b
    .ok b.toNat
  | none => s.memRead a 1

/-- Vector acquisition of a maskable interrupt (R520 steps 5 to 8): in Non-Vectored mode the byte read is discarded. The
MMU may abort each of its reads (R105), which stops in `entry` (log 35). -/
def State.intVector (s : State) : Res Nat := do
  let b ← s.deviceRead Config.ackAddr s.input.ackByte
  if s.cfgI then
    if 0 ≤ b.toInt then .ok b.toNat
    else do
      let a ← s.cascadeAddress b
      s.cascadeRead a
  else .ok 0

/-- Interrupt sequence (R520); `unfinished` says a String instruction has not completed. PC is the address of the next
instruction, or of the String instruction itself. -/
def State.interrupt (s : State) (nmi unfinished : Bool) : Res State :=
  entry do
    let w := if unfinished then putFlag s.psr .p false else s.psr
    let s0 : State := { s with waiting := false }
    let s1 ← ({ s0 with psr := clearFlags w [.s, .u, .t, .p, .i] }).push 2 w.toNat
    if nmi then do
      let _ ← s1.deviceRead Config.nmiAckAddr 0
      ({ s1 with nmiPending := false }).service 1 s.pc
    else do
      let v ← s1.intVector
      s1.service v s.pc

/-! ## Returning from an exception -/

/-- The three pops and the SB reload common to RETT and RETI (R426, R427): the pops use the stack pointer selected on
entry. -/
def State.popFrame (s : State) : Res State := do
  let (pc, s1) ← s.pop 4
  let (m, s2) ← s1.pop 2
  let (w, s3) ← s2.pop 2
  let s4 : State := { s3 with pc := low24 pc }
  (s4.loadPsr w).loadModule (BitVec.ofNat 16 m)

/-- The End of Interrupt reads (R531): the byte of a cascaded unit is discarded. -/
def State.endOfInterrupt (s : State) : Res State := do
  let b ← s.deviceRead Config.ackAddr s.input.eoiByte
  if 0 ≤ b.toInt then .ok s
  else do
    let a ← s.cascadeAddress b
    let _ ← s.deviceRead a.toNat 0
    .ok s

end Sys2Proof.Machine
end

