-- ==== Sys2Proof/Machine/Operands.lean ====
section
/-! DEFINITION. General operands: effective addresses and the access classes read, write, rmw, addr and regaddr
(30_encoding.md R143 to R166). `s0` is always the state the instruction started in, `s` the state now. -/
namespace Sys2Proof.Machine

/-! ## Effective addresses -/

/-- A displacement sign-extended to 32 bits (R143). -/
def Disp32 (d : Disp) : Dword := BitVec.ofInt 32 d.value

/-- A Memory Relative mode: a pointer read, then disp2 (R147). -/
def State.relative (s : State) (base : Dword) (d1 d2 : Disp) : Res Dword := do
  let p ← s.memRead (base + Disp32 d1) 4
  .ok (BitVec.ofNat 32 p + Disp32 d2)

/-- The effective address of a mode under class addr (R144 to R152): Register holds the address, Top of Stack is the
stack pointer now, Stack Memory uses the stack pointer at the start. -/
def modeAddr (s0 s : State) : Mode → Res Dword
  | .reg k => .ok s.r[k]
  | .regRel k d => .ok (s.r[k] + Disp32 d)
  | .frameRel d1 d2 => s.relative (ext24 s.fp) d1 d2
  | .stackRel d1 d2 => s.relative (ext24 s0.sp) d1 d2
  | .staticRel d1 d2 => s.relative (ext24 s.sb) d1 d2
  | .absolute d => if d.value < 0 then faultWith .addressOutOfRange else .ok (Disp32 d)
  | .ext d1 d2 => do
    let p ← s.linkEntry d1.value
    .ok (BitVec.ofNat 32 p + Disp32 d2)
  | .tos => .ok (ext24 s.sp)
  | .frame d => .ok (ext24 s.fp + Disp32 d)
  | .stack d => .ok (ext24 s0.sp + Disp32 d)
  | .static d => .ok (ext24 s.sb + Disp32 d)
  | .program d => .ok (ext24 s0.pc + Disp32 d)

/-- `Addr(gen)`: the effective address of an operand of class addr (R163, R153). -/
def addrOf (s0 s : State) : Gen → Res Dword
  | .mode m => modeAddr s0 s m
  | .scaled sc m x => do
    let a ← modeAddr s0 s m
    .ok (a + s.r[x] * BitVec.ofNat 32 sc.factor)
  | .imm _ => refuseWith (.encoding .immediateNotRead)

/-! ## Locations -/

/-- Which register file Register mode names: integers are in R0 to R7, floating-point values in F0 to F7 (R145). -/
inductive Bank where
  | int | fp
deriving DecidableEq, Repr

/-- Where an operand is. -/
inductive Loc where
  | gpr (k : Fin 8)
  | fpr (k : Fin 8)
  | mem (a : Dword)
deriving DecidableEq, Repr

/-- A register of a bank as a location. -/
def bankLoc : Bank → Fin 8 → Loc
  | .int, k => .gpr k
  | .fp, k => .fpr k

/-- The location of an operand of class rmw (R162), or of a regaddr base (R164): Top of Stack does not move the stack
pointer. -/
def locate (bank : Bank) (s0 s : State) : Gen → Res Loc
  | .mode (.reg k) => .ok (bankLoc bank k)
  | g => do
    let a ← addrOf s0 s g
    .ok (.mem a)

/-- An even register and the next one (R145 items 3 and 5, U5). -/
def pairOf (k : Fin 8) : Res (Fin 8 × Fin 8) :=
  if k.val % 2 = 0 then .ok (k, Fin.ofNat 8 (k.val + 1)) else faultWith .oddRegisterPair

/-- The n-byte value at a location (R145, R160). -/
def State.readLoc (s : State) (n : Nat) : Loc → Res Nat
  | .gpr k => .ok (s.regLow k n)
  | .fpr k =>
    if n = 8 then do
      let (e, o) ← pairOf k
      .ok (s.f[e].toNat + 4294967296 * s.f[o].toNat)
    else .ok s.f[k].toNat
  | .mem a => s.memRead a n

/-- Write the n-byte value at a location (R145, R161). -/
def State.writeLoc (s : State) (n v : Nat) : Loc → Res State
  | .gpr k => .ok (s.setRegLow k n v)
  | .fpr k =>
    if n = 8 then do
      let (e, o) ← pairOf k
      .ok ((s.setFReg e (BitVec.ofNat 32 v)).setFReg o (BitVec.ofNat 32 (v / 4294967296)))
    else .ok (s.setFReg k (BitVec.ofNat 32 v))
  | .mem a => s.memWrite a n v

/-- The 2i operand of n-byte halves at a location: low half, high half (R145 item 3, R166). -/
def State.readPair (s : State) (n : Nat) : Loc → Res (Nat × Nat)
  | .gpr k => do
    let (e, o) ← pairOf k
    .ok (s.regLow e n, s.regLow o n)
  | .fpr _ => refuseWith (.encoding .immediateNotRead)
  | .mem a => do
    let v ← s.memRead a (2 * n)
    .ok (v % 256 ^ n, v / 256 ^ n)

/-- The low half of the 2i operand at a location: in memory only that half is read (R218). -/
def State.readLow (s : State) (n : Nat) : Loc → Res Nat
  | .gpr k => do
    let (e, _) ← pairOf k
    .ok (s.regLow e n)
  | .fpr _ => refuseWith (.encoding .immediateNotRead)
  | .mem a => s.memRead a n

/-- Write the 2i operand of n-byte halves at a location (R145 item 3, R166). -/
def State.writePair (s : State) (n lo hi : Nat) : Loc → Res State
  | .gpr k => do
    let (e, o) ← pairOf k
    .ok ((s.setRegLow e n lo).setRegLow o n hi)
  | .fpr _ => refuseWith (.encoding .immediateNotRead)
  | .mem a => s.memWrite a (2 * n) (lo % 256 ^ n + 256 ^ n * hi)

/-! ## Classes read and write -/

/-- `ReadOp(gen, n)` (R160): Top of Stack pops, unless indexed. -/
def readOp (bank : Bank) (n : Nat) (s0 s : State) : Gen → Res (Nat × State)
  | .imm v => .ok (v.toNat % 256 ^ n, s)
  | .mode .tos => s.pop n
  | g => do
    let l ← locate bank s0 s g
    let v ← s.readLoc n l
    .ok (v, s)

/-- Where a write operand is stored and the state once Top of Stack has made room (R161, R151 item 4). -/
def locateWrite (bank : Bank) (n : Nat) (s0 s : State) : Gen → Res (Loc × State)
  | .mode .tos =>
    if s.sp.toNat < n then faultWith .addressOutOfRange
    else
      let a := BitVec.ofNat 24 (s.sp.toNat - n)
      .ok (.mem (ext24 a), s.setSp a)
  | g => do
    let l ← locate bank s0 s g
    .ok (l, s)

/-- `WriteOp(gen, n, v)` (R161). -/
def writeOp (bank : Bank) (n v : Nat) (s0 s : State) (g : Gen) : Res State := do
  let (l, s1) ← locateWrite bank n s0 s g
  s1.writeLoc n v l

/-! ## Shapes many instructions share -/

/-- PSR is updated and a location written, in this order, so that an abort of the write finds the flags open (R524; log
34). -/
def State.deliver (s : State) (w : Word) (n v : Nat) (l : Loc) : Res State :=
  ({ s with psr := w } : State).writeLoc n v l

/-- `src read, dest write`: the value written is a function of the value read and of PSR, which it may update. -/
def moveShape (bs bd : Bank) (ns nd : Nat) (i : Instr) (src dst : Gen) (f : Nat → Word → Nat × Word) (s : State) :
    Res State := do
  let (a, s1) ← readOp bs ns s s src
  let (l, s2) ← locateWrite bd nd s s1 dst
  let s3 ← s2.deliver (f a s.psr).2 nd (f a s.psr).1 l
  .ok (s3.advance i)

/-- `src read, dest rmw` on integers: the new value is a function of src, of dest and of PSR, which it may update. -/
def rmwShape (ns nd : Nat) (i : Instr) (src dst : Gen) (f : Nat → Nat → Word → Nat × Word) (s : State) :
    Res State := do
  let (a, s1) ← readOp .int ns s s src
  let l ← locate .int s s1 dst
  let d ← s1.readLoc nd l
  let s2 ← s1.deliver (f a d s.psr).2 nd (f a d s.psr).1 l
  .ok (s2.advance i)

/-- `src1 read, src2 read` on integers: a comparison that updates PSR. -/
def compareShape (n : Nat) (i : Instr) (src1 src2 : Gen) (f : Nat → Nat → Word → Word) (s : State) : Res State := do
  let (a, s1) ← readOp .int n s s src1
  let (b, s2) ← readOp .int n s s1 src2
  .ok (({ s2 with psr := f a b s.psr } : State).advance i)

end Sys2Proof.Machine
end

