-- ==== Sys2Proof/Machine/Bits.lean ====
section
/-! DEFINITION. The bit and bit field instructions (44_bit_and_bit_field.md). -/
namespace Sys2Proof.Machine

/-! ## Bits -/

/-- A byte address reached from a base by a signed number of bytes; outside the space it faults (R330, U2). The base's
own effective address may lie outside: only the byte reached is accessed (DESIGN CHOICE: U2 names the effective address,
R84 an access; log 38, unsafe). The sum is exact: an address of 32 bits does not wrap around to reach the space (R84). -/
def byteAt (ea : Dword) (k : Int) : Res Dword :=
  let t : Int := (ea.toNat : Int) + k
  if 0 ≤ t ∧ t < 16777216 then .ok (BitVec.ofNat 32 t.toNat) else faultWith .addressOutOfRange

/-- What holds a bit, its length in bytes, and the bit's number in it (R330). -/
def locateBit (l : Loc) (o : Int) : Res (Loc × Nat × Nat) :=
  match l with
  | .mem ea => do
    let a ← byteAt ea (o.fdiv 8)
    .ok (.mem a, 1, (o.fmod 8).toNat)
  | reg => if 0 ≤ o ∧ o < 32 then .ok (reg, 4, o.toNat) else faultWith .bitOutsideRegister

/-- Bit b of a value. -/
def bitOf (v b : Nat) : Bool := decide (v / 2 ^ b % 2 = 1)

/-- A value with bit b set. -/
def bitSet (v b : Nat) : Nat := v ||| 2 ^ b

/-- A value with bit b cleared. -/
def bitClear (v b : Nat) : Nat := if bitOf v b then v - 2 ^ b else v

/-- A value with bit b inverted. -/
def bitInvert (v b : Nat) : Nat := v ^^^ 2 ^ b

/-- The shape of SBITi, CBITi, IBITi and their interlocked forms: F takes the old bit, then the bit is rewritten. -/
def bitShape (i : IntLen) (off base : Gen) (f : Nat → Nat → Nat) (s : State) : Res (Loc × State) := do
  let (o, s1) ← readOp .int i.bytes s s off
  let l ← locate .int s s1 base
  let (c, n, b) ← locateBit l (sext i.bits o)
  let v ← s1.readLoc n c
  let s2 ← s1.deliver (putFlag s1.psr .f (bitOf v b)) n (f v b) c
  .ok (l, s2)

/-- A memory base raises the Interlocked Operation pin (R112, R334, R336). -/
def isMemory : Loc → Bool
  | .mem _ => true
  | _ => false

/-- TBITi (R331). -/
def execTbiti (i : IntLen) (off base : Gen) (s : State) : Host.Outcome State Fault Refusal :=
  s.run do
    let (o, s1) ← readOp .int i.bytes s s off
    let l ← locate .int s s1 base
    let (c, n, b) ← locateBit l (sext i.bits o)
    let v ← s1.readLoc n c
    .ok ((s1.setFlag .f (bitOf v b)).advance (.tbiti i off base))

/-- SBITi (R332). -/
def execSbiti (i : IntLen) (off base : Gen) (s : State) : Host.Outcome State Fault Refusal :=
  s.run do
    let (_, s1) ← bitShape i off base bitSet s
    .ok (s1.advance (.sbiti i off base))

/-- CBITi (R333). -/
def execCbiti (i : IntLen) (off base : Gen) (s : State) : Host.Outcome State Fault Refusal :=
  s.run do
    let (_, s1) ← bitShape i off base bitClear s
    .ok (s1.advance (.cbiti i off base))

/-- SBITIi (R334). -/
def execSbitii (i : IntLen) (off base : Gen) (s : State) : Host.Outcome State Fault Refusal :=
  s.run do
    let (l, s1) ← bitShape i off base bitSet s
    .ok (({ s1 with interlock := isMemory l } : State).advance (.sbitii i off base))

/-- CBITIi (R336). -/
def execCbitii (i : IntLen) (off base : Gen) (s : State) : Host.Outcome State Fault Refusal :=
  s.run do
    let (l, s1) ← bitShape i off base bitClear s
    .ok (({ s1 with interlock := isMemory l } : State).advance (.cbitii i off base))

/-- IBITi (R335). -/
def execIbiti (i : IntLen) (off base : Gen) (s : State) : Host.Outcome State Fault Refusal :=
  s.run do
    let (_, s1) ← bitShape i off base bitInvert s
    .ok (s1.advance (.ibiti i off base))

/-- The first 1 bit at or above `o`, looking at `n` bits (R337). -/
def findSet (v : Nat) : Nat → Nat → Option Nat
  | _, 0 => none
  | o, n + 1 => if bitOf v o then some o else findSet v (o + 1) n

/-- FFSi (R337): offset and F are free where the offset is the length or more (U20). -/
def execFfsi (i : IntLen) (base off : Gen) (s : State) : Host.Outcome State Fault Refusal :=
  s.run do
    let (v, s1) ← readOp .int i.bytes s s base
    let l ← locate .int s s1 off
    let o ← s1.readLoc 1 l
    if o < i.bits then
      match findSet v o (i.bits - o) with
      | some k => do
        let s2 ← s1.deliver (putFlag s1.psr .f false) 1 k l
        .ok (s2.advance (.ffsi i base off))
      | none => do
        let s2 ← s1.deliver (putFlag s1.psr .f true) 1 0 l
        .ok (s2.advance (.ffsi i base off))
    else do
      let (x, s2) := s1.freshNat 9
      let s3 ← s2.deliver (putFlag s2.psr .f (decide (256 ≤ x))) 1 (x % 256) l
      .ok (s3.advance (.ffsi i base off))

/-- CVTP (R338): base of class addr, the offset a whole register taken as signed. The base is computed and not accessed,
so one outside 0 to 0xFFFFFF is no fault (DESIGN CHOICE: R84 makes an access there undefined, U2 names the effective
address; log 40, unsafe). -/
def execCvtp (off : Fin 8) (base dst : Gen) (s : State) : Host.Outcome State Fault Refusal :=
  s.run do
    let a ← addrOf s s base
    let s1 ← writeOp .int 4 (8#32 * a + s.r[off]).toNat s s dst
    .ok (s1.advance (.cvtp off base dst))

/-! ## Bit fields -/

/-- The 32-bit container of a field and the field's first bit in it (R340, U23, U24). -/
def locateField (l : Loc) (o : Int) (len : Nat) : Res (Loc × Nat) :=
  match l with
  | .mem ea => do
    let a ← byteAt ea (o.fdiv 8)
    if (o.fmod 8).toNat + len ≤ 32 then .ok (.mem a, (o.fmod 8).toNat) else faultWith .fieldTooWide
  | reg => if 0 ≤ o ∧ o < 32 ∧ o + len ≤ 32 then .ok (reg, o.toNat) else faultWith .bitOutsideRegister

/-- FieldRead (R340). -/
def State.readField (s : State) (l : Loc) (o : Int) (len : Nat) : Res Nat := do
  let (c, k) ← locateField l o len
  let d ← s.readLoc 4 c
  .ok (d / 2 ^ k % 2 ^ len)

/-- A double-word with bits k+len-1 to k replaced. -/
def insertBits (d k len v : Nat) : Nat := d % 2 ^ k + 2 ^ k * (v % 2 ^ len) + 2 ^ (k + len) * (d / 2 ^ (k + len))

/-- FieldWrite: the whole double-word is rewritten (R340, R341). -/
def State.writeField (s : State) (l : Loc) (o : Int) (len v : Nat) : Res State := do
  let (c, k) ← locateField l o len
  let d ← s.readLoc 4 c
  s.writeLoc 4 (insertBits d k len v) c

/-- A field length of 1 to 32 (R340, U19). -/
def fieldLength (d : Int) : Res Nat :=
  if 1 ≤ d ∧ d ≤ 32 then .ok d.toNat else refuseWith .fieldLength

/-- The shape of EXTi and EXTSi. -/
def extractShape (i : IntLen) (ins : Instr) (base dst : Gen) (o : Int) (len : Nat) (s : State) : Res State := do
  let l ← locate .int s s base
  let v ← s.readField l o len
  let s1 ← writeOp .int i.bytes (v % 2 ^ i.bits) s s dst
  .ok (s1.advance ins)

/-- The shape of INSi and INSSi. -/
def insertShape (i : IntLen) (ins : Instr) (src base : Gen) (o : Int) (len : Nat) (s : State) : Res State := do
  let (v, s1) ← readOp .int i.bytes s s src
  let l ← locate .int s s1 base
  let s2 ← s1.writeField l o len v
  .ok (s2.advance ins)

/-- EXTi (R343). -/
def execExti (i : IntLen) (off : Fin 8) (base dst : Gen) (len : Disp) (s : State) :
    Host.Outcome State Fault Refusal :=
  s.run do
    let n ← fieldLength len.value
    extractShape i (.exti i off base dst len) base dst s.r[off].toInt n s

/-- INSi (R344). -/
def execInsi (i : IntLen) (off : Fin 8) (src base : Gen) (len : Disp) (s : State) :
    Host.Outcome State Fault Refusal :=
  s.run do
    let n ← fieldLength len.value
    insertShape i (.insi i off src base len) src base s.r[off].toInt n s

/-- EXTSi (R345): the offset and the length less one are packed in one byte. -/
def execExtsi (i : IntLen) (base dst : Gen) (off : BitVec 3) (len : BitVec 5) (s : State) :
    Host.Outcome State Fault Refusal :=
  s.run (extractShape i (.extsi i base dst off len) base dst (off.toNat : Int) (len.toNat + 1) s)

/-- INSSi (R347). -/
def execInssi (i : IntLen) (src base : Gen) (off : BitVec 3) (len : BitVec 5) (s : State) :
    Host.Outcome State Fault Refusal :=
  s.run (insertShape i (.inssi i src base off len) src base (off.toNat : Int) (len.toNat + 1) s)

end Sys2Proof.Machine
end

