-- ==== Sys2Proof/Machine/Blocks.lean ====
section
/-! DEFINITION. The block and array instructions (46_block_and_array.md). -/
namespace Sys2Proof.Machine

/-- The number of elements a length displacement encodes (R380, U26). -/
def blockCount (n : Nat) (d : Int) : Res Nat :=
  if 0 ≤ d ∧ d % n = 0 ∧ d + n ≤ 16 then .ok (d.toNat / n + 1) else refuseWith .blockLength

/-- Two blocks of `len` bytes share a byte. -/
def overlap (a b : Dword) (len : Nat) : Bool :=
  decide (a.toNat < b.toNat + len) && decide (b.toNat < a.toNat + len)

/-- Move k elements of n bytes, one at a time (R382, R100); `free` says that every byte stored is free. -/
def moveBlocks (n : Nat) (free : Bool) : Nat → Dword → Dword → State → Res State
  | 0, _, _, s => .ok s
  | k + 1, a, b, s => do
    let v ← s.memRead a n
    let (x, s1) := if free then s.freshNat (8 * n) else (v, s)
    let s2 ← s1.memWrite b n x
    moveBlocks n free k (a + BitVec.ofNat 32 n) (b + BitVec.ofNat 32 n) s2

/-- MOVMi (R382): every byte of block2 is free where the blocks overlap (U21; log 6). -/
def execMovmi (i : IntLen) (block1 block2 : Gen) (len : Disp) (s : State) : Host.Outcome State Fault Refusal :=
  s.run do
    let k ← blockCount i.bytes len.value
    let a ← addrOf s s block1
    let b ← addrOf s s block2
    let s1 ← moveBlocks i.bytes (overlap a b (k * i.bytes)) k a b s
    .ok (s1.advance (.movmi i block1 block2 len))

/-- Compare k pairs of n-byte elements up to the first unequal pair, in a state whose Z, N and L say equal (R383). -/
def compareBlocks (s : State) (n : Nat) : Nat → Dword → Dword → Res Word
  | 0, _, _ => .ok s.psr
  | k + 1, a, b => do
    let x ← s.memRead a n
    let y ← s.memRead b n
    if x = y then compareBlocks s n k (a + BitVec.ofNat 32 n) (b + BitVec.ofNat 32 n)
    else .ok (cmpFlags (8 * n) x y s.psr)

/-- CMPMi (R383): Z, N and L are 1, 0 and 0 before the first element is read, so an abort of an element's read leaves
each of them free to be old or new (R524 leaves it open; log 34). -/
def execCmpmi (i : IntLen) (block1 block2 : Gen) (len : Disp) (s : State) : Host.Outcome State Fault Refusal :=
  s.run do
    let k ← blockCount i.bytes len.value
    let a ← addrOf s s block1
    let b ← addrOf s s block2
    let s1 : State := { s with psr := cmpFlags 8 0 0 s.psr }
    let w ← compareBlocks s1 i.bytes k a b
    .ok (({ s1 with psr := w } : State).advance (.cmpmi i block1 block2 len))

/-- CHECKi (R384): dest is free where src is out of bounds (U15). -/
def execChecki (i : IntLen) (dst : Fin 8) (bounds src : Gen) (s : State) : Host.Outcome State Fault Refusal :=
  s.run do
    let a ← addrOf s s bounds
    let u ← s.memRead a i.bytes
    let l ← s.memRead (a + BitVec.ofNat 32 i.bytes) i.bytes
    let (v, s1) ← readOp .int i.bytes s s src
    let x := sext i.bits v
    if x > sext i.bits u ∨ x < sext i.bits l then
      let (d, s2) := s1.freshNat 32
      .ok (((s2.setReg dst (BitVec.ofNat 32 d)).setFlag .f true).advance (.checki i dst bounds src))
    else
      .ok (((s1.setReg dst (BitVec.ofInt 32 (x - sext i.bits l))).setFlag .f false).advance
        (.checki i dst bounds src))

/-- INDEXi (R385), modulo 2^32 (D13; log 17). -/
def execIndexi (i : IntLen) (accum : Fin 8) (len idx : Gen) (s : State) : Host.Outcome State Fault Refusal :=
  s.run do
    let (l, s1) ← readOp .int i.bytes s s len
    let (x, s2) ← readOp .int i.bytes s s1 idx
    .ok ((s2.setReg accum (BitVec.ofNat 32 (s.r[accum].toNat * (l + 1) + x))).advance (.indexi i accum len idx))

end Sys2Proof.Machine
end

