-- ==== Sys2Proof/Machine/Control.lean ====
section
/-! DEFINITION. The processor control instructions (47_processor_control.md). -/
namespace Sys2Proof.Machine

/-! ## Branches -/

/-- JUMP (R403). -/
def execJump (dst : Gen) (s : State) : Host.Outcome State Fault Refusal :=
  s.run do
    let a ← addrOf s s dst
    .ok (s.goto a)

/-- The shape of Bcond (R404). -/
def branchIf (ins : Instr) (k : Cond) (d : Disp) (s : State) : State :=
  if condTrue k s.psr then s.branch d.value else s.advance ins

/-- BEQ (R404). -/
def execBeq (d : Disp) (s : State) : Host.Outcome State Fault Refusal := .next (branchIf (.beq d) .eq d s)

/-- BNE (R404). -/
def execBne (d : Disp) (s : State) : Host.Outcome State Fault Refusal := .next (branchIf (.bne d) .ne d s)

/-- BCS (R404). -/
def execBcs (d : Disp) (s : State) : Host.Outcome State Fault Refusal := .next (branchIf (.bcs d) .cs d s)

/-- BCC (R404). -/
def execBcc (d : Disp) (s : State) : Host.Outcome State Fault Refusal := .next (branchIf (.bcc d) .cc d s)

/-- BHI (R404). -/
def execBhi (d : Disp) (s : State) : Host.Outcome State Fault Refusal := .next (branchIf (.bhi d) .hi d s)

/-- BLS (R404). -/
def execBls (d : Disp) (s : State) : Host.Outcome State Fault Refusal := .next (branchIf (.bls d) .ls d s)

/-- BGT (R404). -/
def execBgt (d : Disp) (s : State) : Host.Outcome State Fault Refusal := .next (branchIf (.bgt d) .gt d s)

/-- BLE (R404). -/
def execBle (d : Disp) (s : State) : Host.Outcome State Fault Refusal := .next (branchIf (.ble d) .le d s)

/-- BFS (R404). -/
def execBfs (d : Disp) (s : State) : Host.Outcome State Fault Refusal := .next (branchIf (.bfs d) .fs d s)

/-- BFC (R404). -/
def execBfc (d : Disp) (s : State) : Host.Outcome State Fault Refusal := .next (branchIf (.bfc d) .fc d s)

/-- BLO (R404). -/
def execBlo (d : Disp) (s : State) : Host.Outcome State Fault Refusal := .next (branchIf (.blo d) .lo d s)

/-- BHS (R404). -/
def execBhs (d : Disp) (s : State) : Host.Outcome State Fault Refusal := .next (branchIf (.bhs d) .hs d s)

/-- BLT (R404). -/
def execBlt (d : Disp) (s : State) : Host.Outcome State Fault Refusal := .next (branchIf (.blt d) .lt d s)

/-- BGE (R404). -/
def execBge (d : Disp) (s : State) : Host.Outcome State Fault Refusal := .next (branchIf (.bge d) .ge d s)

/-- BR (R405). -/
def execBr (d : Disp) (s : State) : Host.Outcome State Fault Refusal := .next (s.branch d.value)

/-- CASEi (R406). -/
def execCasei (i : IntLen) (src : Gen) (s : State) : Host.Outcome State Fault Refusal :=
  s.run do
    let (v, s1) ← readOp .int i.bytes s s src
    .ok (s1.branch (sext i.bits v))

/-- ACBi (R407). -/
def execAcbi (i : IntLen) (q : BitVec 4) (idx : Gen) (d : Disp) (s : State) : Host.Outcome State Fault Refusal :=
  s.run do
    let l ← locate .int s s idx
    let v ← s.readLoc i.bytes l
    let x := trunc i.bits ((v : Int) + q.toInt)
    let s1 ← s.writeLoc i.bytes x l
    .ok (if x = 0 then s1.advance (.acbi i q idx d) else s1.branch d.value)

/-! ## Local calls and returns -/

/-- Push the address of the next sequential instruction (R400). -/
def State.pushReturn (s : State) (ins : Instr) : Res State :=
  let (a, s1) := s.nextPc ins
  s1.push 4 a.toNat

/-- JSR (R408): the address is computed before the push. -/
def execJsr (dst : Gen) (s : State) : Host.Outcome State Fault Refusal :=
  s.run do
    let a ← addrOf s s dst
    let s1 ← s.pushReturn (.jsr dst)
    .ok (s1.goto a)

/-- BSR (R409). -/
def execBsr (d : Disp) (s : State) : Host.Outcome State Fault Refusal :=
  s.run do
    let s1 ← s.pushReturn (.bsr d)
    .ok (s1.branch d.value)

/-- RET (R410). -/
def execRet (d : Disp) (s : State) : Host.Outcome State Fault Refusal :=
  s.run do
    let (ra, s1) ← s.pop 4
    .ok ((s1.addSp d.value).goto (BitVec.ofNat 32 ra))

/-! ## External calls and returns -/

/-- Save MOD and the return address, the two bytes above MOD free (U16), and enter the procedure (R411, R412). The two
bytes are written first, by a write of their own (DESIGN CHOICE: R411 decrements SP and calls them placed on the stack;
log 39, safe). -/
def callExternal (ins : Instr) (d : Nat) (s : State) : Res State := do
  let (x, s1) := s.freshNat 16
  let s2 ← s1.push 2 x
  let s3 ← s2.push 2 s.mod.toNat
  let s4 ← s3.pushReturn ins
  s4.enterProcedure d

/-- CXP (R411). -/
def execCxp (d : Disp) (s : State) : Host.Outcome State Fault Refusal :=
  s.run do
    let p ← s.linkEntry d.value
    callExternal (.cxp d) p s

/-- CXPD (R412). -/
def execCxpd (desc : Gen) (s : State) : Host.Outcome State Fault Refusal :=
  s.run do
    let a ← addrOf s s desc
    let p ← s.memRead a 4
    callExternal (.cxpd desc) p s

/-- RXP (R413). -/
def execRxp (d : Disp) (s : State) : Host.Outcome State Fault Refusal :=
  s.run do
    let (pc, s1) ← s.pop 4
    let (m, s2) ← s1.pop 2
    let s3 ← (s2.addSp 2).loadModule (BitVec.ofNat 16 m)
    .ok ((s3.addSp d.value).goto (BitVec.ofNat 32 pc))

/-! ## Explicit traps -/

/-- BPT (R420). -/
def execBpt (s : State) : Host.Outcome State Fault Refusal := s.run (s.trap .bpt)

/-- FLAG (R421). -/
def execFlag (s : State) : Host.Outcome State Fault Refusal :=
  s.run (if s.flag .f then s.trap .flg else .ok (s.advance .flag))

/-- SVC (R422). -/
def execSvc (s : State) : Host.Outcome State Fault Refusal := s.run (s.trap .svc)

/-! ## Returns from exceptions -/

/-- RETT (R426): the constant is added to the stack pointer the restored PSR selects. -/
def execRett (d : Disp) (s : State) : Host.Outcome State Fault Refusal :=
  s.run (if s.flag .u then s.trap .ill
    else do
      let s1 ← s.popFrame
      .ok (s1.addSp d.value))

/-- RETI (R427). -/
def execReti (s : State) : Host.Outcome State Fault Refusal :=
  s.run (if s.flag .u then s.trap .ill
    else do
      let s1 ← s.endOfInterrupt
      s1.popFrame)

end Sys2Proof.Machine
end

