-- ==== Sys2Proof/Machine/Decimal.lean ====
section
/-! DEFINITION. The packed decimal instructions (41_packed_decimal.md). -/
namespace Sys2Proof.Machine

/-- Every one of k digits is at most 9 (R241). -/
def validBcd : Nat → Nat → Bool
  | 0, _ => true
  | k + 1, x => decide (x % 16 ≤ 9) && validBcd k (x / 16)

/-- The value of k digits, d0 least significant (R240). -/
def bcdValue : Nat → Nat → Nat
  | 0, _ => 0
  | k + 1, x => x % 16 + 10 * bcdValue k (x / 16)

/-- The k digits of a value (R240). -/
def toBcd : Nat → Nat → Nat
  | 0, _ => 0
  | k + 1, v => v % 10 + 16 * toBcd k (v / 10)

/-- Digits of an operand of a length (R242). -/
def digits (i : IntLen) : Nat := 2 * i.bytes

/-- The shape of ADDPi and SUBPi: dest and C are free where a digit is not legal, F is cleared (R241, U13). `f` gives
the result and C from the decimal values of src and dest and from C. -/
def decimalShape (i : IntLen) (ins : Instr) (src dst : Gen) (f : Nat → Nat → Nat → Nat × Bool) (s : State) :
    Res State := do
  let (a, s1) ← readOp .int i.bytes s s src
  let l ← locate .int s s1 dst
  let d ← s1.readLoc i.bytes l
  if validBcd (digits i) a && validBcd (digits i) d then do
    let (v, c) := f (bcdValue (digits i) a) (bcdValue (digits i) d) (s.flag .c).toNat
    let s2 ← s1.deliver (putFlag (putFlag s1.psr .c c) .f false) i.bytes (toBcd (digits i) v) l
    .ok (s2.advance ins)
  else do
    let (v, s2) := s1.freshNat 33
    let s3 ← s2.deliver (putFlag (putFlag s2.psr .c (decide (2 ^ 32 ≤ v))) .f false) i.bytes (v % 2 ^ i.bits) l
    .ok (s3.advance ins)

/-- ADDPi (R242). -/
def execAddpi (i : IntLen) (src dst : Gen) (s : State) : Host.Outcome State Fault Refusal :=
  s.run (decimalShape i (.addpi i src dst) src dst
    (fun a d c => ((d + a + c) % 10 ^ digits i, decide (10 ^ digits i ≤ d + a + c))) s)

/-- SUBPi (R243). -/
def execSubpi (i : IntLen) (src dst : Gen) (s : State) : Host.Outcome State Fault Refusal :=
  s.run (decimalShape i (.subpi i src dst) src dst
    (fun a d c => if d < a + c then (d + 10 ^ digits i - (a + c), true) else (d - (a + c), false)) s)

end Sys2Proof.Machine
end

