-- ==== Sys2Proof/Machine/Floating.lean ====
section
/-! DEFINITION. The floating-point instructions (42_floating_point.md). Results are computed exactly and rounded
once. -/
namespace Sys2Proof.Machine

/-! ## Formats and values (R252 to R254) -/

/-- Significant bits of a format: 24 or 53. -/
def fpPrec : FpLen → Nat
  | .single => 24
  | .double => 53

/-- Bias of a format: 127 or 1023. -/
def fpBias : FpLen → Nat
  | .single => 127
  | .double => 1023

/-- Exponent bits of a format: 8 or 11. -/
def fpExpBits : FpLen → Nat
  | .single => 8
  | .double => 11

/-- Position of the sign bit. -/
def fpSignBit (f : FpLen) : Nat := 8 * f.bytes - 1

/-- The class and value of a pattern: a normalized number is m * 2^e with its sign (R254). -/
inductive FpVal where
  | zero (neg : Bool)
  | num (neg : Bool) (m : Nat) (e : Int)
  | reserved
deriving DecidableEq, Repr

/-- The sign bit of a pattern. -/
def fpSign (f : FpLen) (v : Nat) : Bool := decide (v / 2 ^ fpSignBit f % 2 = 1)

/-- Classify a pattern (R252, R253, R254). -/
def fpUnpack (f : FpLen) (v : Nat) : FpVal :=
  let w := fpPrec f - 1
  let frac := v % 2 ^ w
  let e := v / 2 ^ w % 2 ^ fpExpBits f
  if e = 0 then (if frac = 0 then .zero (fpSign f v) else .reserved)
  else if e = 2 ^ fpExpBits f - 1 then .reserved
  else .num (fpSign f v) (2 ^ w + frac) ((e : Int) - fpBias f - w)

/-- The pattern of a zero. -/
def fpZero (f : FpLen) (neg : Bool) : Nat := if neg then 2 ^ fpSignBit f else 0

/-- The pattern of a normalized number with exponent `ex` and p significant bits `q`. -/
def fpPack (f : FpLen) (neg : Bool) (ex : Int) (q : Nat) : Nat :=
  fpZero f neg + (ex + fpBias f).toNat * 2 ^ (fpPrec f - 1) + (q - 2 ^ (fpPrec f - 1))

/-! ## Rounding (R255) -/

/-- Whether a magnitude q + r/d (0 ≤ r < d) rounds up: modes 0 nearest even, 1 toward zero, 2 toward plus infinity,
3 toward minus infinity (R57). -/
def roundUp (rm : Nat) (neg : Bool) (q r d : Nat) : Bool :=
  match rm with
  | 0 => decide (d < 2 * r) || (decide (d = 2 * r) && decide (q % 2 = 1))
  | 1 => false
  | 2 => !neg && decide (r ≠ 0)
  | _ => neg && decide (r ≠ 0)

/-- n/d * 2^j as a fraction of natural numbers. -/
def scaleFrac (n d : Nat) (j : Int) : Nat × Nat :=
  if 0 ≤ j then (n * 2 ^ j.toNat, d) else (n, d * 2 ^ (-j).toNat)

/-- floor(log2(n/d)) for positive n and d. -/
def fracExp (n d : Nat) : Int :=
  let t : Int := (Nat.log2 n : Int) - Nat.log2 d
  let (a, b) := scaleFrac n d (-t)
  if a < b then t - 1 else t

/-! ## Delivering results (R264) -/

/-- FSR after an operation, and the pattern to store, or none where Trap (FPU) occurs. -/
structure FpOut where
  fsr : Dword
  result : Option Nat
deriving DecidableEq, Repr

/-- A result without an exceptional condition (R58). -/
def fpExact (fsr : Dword) (v : Nat) : FpOut := ⟨fsrWithTt fsr 0, some v⟩

/-- A condition that always traps (R259 to R262). -/
def fpTrapWith (fsr : Dword) (tt : Nat) : FpOut := ⟨fsrWithTt fsr tt, none⟩

/-- Inexact Result where nothing else occurred (R263). -/
def fpInexact (fsr : Dword) (v : Nat) : FpOut :=
  ⟨fsrWithTt (fsrSetIf fsr) 6, if fsrIen fsr then none else some v⟩

/-- FpResult: deliver the exact non-zero result n/d * 2^e with its sign (R264; underflow is tested before rounding,
D17, log 16). -/
def fpResult (f : FpLen) (neg : Bool) (n d : Nat) (e : Int) (fsr : Dword) : FpOut :=
  let ex := fracExp n d + e
  if ex < 1 - fpBias f then
    ⟨fsrWithTt (fsrSetUf fsr) 1, if fsrUen fsr then none else some 0⟩
  else
    let (a, b) := scaleFrac n d ((fpPrec f : Int) - 1 - fracExp n d)
    let q := a / b
    let r := a % b
    let q1 := if roundUp (fsrRm fsr) neg q r b then q + 1 else q
    let ex1 := if q1 = 2 ^ fpPrec f then ex + 1 else ex
    let q2 := if q1 = 2 ^ fpPrec f then 2 ^ (fpPrec f - 1) else q1
    if (fpBias f : Int) < ex1 then fpTrapWith fsr 2
    else if r = 0 then fpExact fsr (fpPack f neg ex1 q2)
    else fpInexact fsr (fpPack f neg ex1 q2)

/-- FpToInt: deliver an integer of the length (R264). -/
def fpToInt (i : IntLen) (n : Int) (inexact : Bool) (fsr : Dword) : FpOut :=
  if !fits i.bits n then fpTrapWith fsr 2
  else if inexact then fpInexact fsr (trunc i.bits n)
  else fpExact fsr (trunc i.bits n)

/-- A value rounded to an integer by a fixed mode, delivered (R279, R280, R283). -/
def fpConvert (rm : Nat) (i : IntLen) (v : FpVal) (fsr : Dword) : FpOut :=
  match v with
  | .reserved => fpTrapWith fsr 5
  | .zero _ => fpExact fsr 0
  | .num neg m e =>
    let (a, b) := scaleFrac m 1 e
    let q := if roundUp rm neg (a / b) (a % b) b then a / b + 1 else a / b
    fpToInt i (if neg then -(q : Int) else (q : Int)) (decide (a % b ≠ 0)) fsr

/-! ## Arithmetic -/

/-- The sign of a zero sum (R256, R270). -/
def zeroSumNeg (fsr : Dword) : Bool := decide (fsrRm fsr = 3)

/-- m * 2^e as an integer multiple of 2^k, for k ≤ e. -/
def fpScaled (neg : Bool) (m : Nat) (e k : Int) : Int :=
  let v : Nat := m * 2 ^ (e - k).toNat
  if neg then -(v : Int) else (v : Int)

/-- An exact integer multiple of 2^k, delivered; a zero takes the sign of a zero sum. -/
def fpDeliver (f : FpLen) (v : Int) (k : Int) (fsr : Dword) : FpOut :=
  if v = 0 then fpExact fsr (fpZero f (zeroSumNeg fsr))
  else fpResult f (decide (v < 0)) v.natAbs 1 k fsr

/-- ADDf (R270). -/
def fpAdd (f : FpLen) (a b : FpVal) (fsr : Dword) : FpOut :=
  match a, b with
  | .reserved, _ => fpTrapWith fsr 5
  | _, .reserved => fpTrapWith fsr 5
  | .zero x, .zero y => fpExact fsr (fpZero f (if x = y then x else zeroSumNeg fsr))
  | .zero _, .num y m e => fpDeliver f (fpScaled y m e e) e fsr
  | .num x m e, .zero _ => fpDeliver f (fpScaled x m e e) e fsr
  | .num x m e, .num y n g => fpDeliver f (fpScaled x m e (min e g) + fpScaled y n g (min e g)) (min e g) fsr

/-- The value with its sign inverted (R271, R274). -/
def fpNegate : FpVal → FpVal
  | .zero x => .zero (!x)
  | .num x m e => .num (!x) m e
  | .reserved => .reserved

/-- MULf (R272). -/
def fpMul (f : FpLen) (a b : FpVal) (fsr : Dword) : FpOut :=
  match a, b with
  | .reserved, _ => fpTrapWith fsr 5
  | _, .reserved => fpTrapWith fsr 5
  | .zero x, .zero y => fpExact fsr (fpZero f (x != y))
  | .zero x, .num y _ _ => fpExact fsr (fpZero f (x != y))
  | .num x _ _, .zero y => fpExact fsr (fpZero f (x != y))
  | .num x m e, .num y n g => fpResult f (x != y) (m * n) 1 (e + g) fsr

/-- DIVf: b divided by a (R273, R260, R262). -/
def fpDiv (f : FpLen) (a b : FpVal) (fsr : Dword) : FpOut :=
  match a, b with
  | .reserved, _ => fpTrapWith fsr 5
  | _, .reserved => fpTrapWith fsr 5
  | .zero _, .zero _ => fpTrapWith fsr 5
  | .zero _, .num _ _ _ => fpTrapWith fsr 3
  | .num x _ _, .zero y => fpExact fsr (fpZero f (x != y))
  | .num x m e, .num y n g => fpResult f (x != y) n m (g - e) fsr

/-- Whether a > b, and whether a = b, for values that are not reserved; the zeroes are equal (R254, R276). -/
def fpCompare (a b : FpVal) : Bool × Bool :=
  let key (v : FpVal) (k : Int) : Int :=
    match v with
    | .num x m e => fpScaled x m e k
    | _ => 0
  let low (v : FpVal) : Int :=
    match v with
    | .num _ _ e => e
    | _ => 0
  let k := min (low a) (low b)
  (decide (key b k < key a k), decide (key a k = key b k))

/-- The value is a reserved operand (R257). -/
def fpReserved (f : FpLen) (v : Nat) : Bool := decide (fpUnpack f v = .reserved)

/-! ## Shapes -/

/-- Trap (FPU) with FSR as the operation leaves it (R264). -/
def State.fpTrap (s : State) (fsr : Dword) : Res State := ({ s with fsr := fsr } : State).trap .fpu

/-- Trap (UND) where CFG.F is clear, else the body (R265). -/
def fpGuard (s : State) (body : Res State) : Res State := if s.cfgF then body else s.trap .und

/-- `src read.f, dest rmw.f` (R270 to R273). -/
def fpBinary (f : FpLen) (ins : Instr) (src dst : Gen) (op : FpVal → FpVal → Dword → FpOut) (s : State) :
    Res State :=
  fpGuard s do
    let (a, s1) ← readOp .fp f.bytes s s src
    let l ← locate .fp s s1 dst
    let b ← s1.readLoc f.bytes l
    let out := op (fpUnpack f a) (fpUnpack f b) s.fsr
    match out.result with
    | none => s.fpTrap out.fsr
    | some v => do
      let s2 ← s1.writeLoc f.bytes v l
      .ok (({ s2 with fsr := out.fsr } : State).advance ins)

/-- `src read, dest write` delivering a result (R274 to R283). Trap (FPU) is taken before dest is evaluated, so before a
pointer of dest is read and before its register pair is looked at (DESIGN CHOICE: the steps of R264 write dest last, R512
and D8 put operand accesses before result-time traps; log 14, unsafe). -/
def fpUnary (bs bd : Bank) (ns nd : Nat) (ins : Instr) (src dst : Gen) (op : Nat → Dword → FpOut) (s : State) :
    Res State :=
  fpGuard s do
    let (a, s1) ← readOp bs ns s s src
    let out := op a s.fsr
    match out.result with
    | none => s.fpTrap out.fsr
    | some v => do
      let s2 ← writeOp bd nd v s s1 dst
      .ok (({ s2 with fsr := out.fsr } : State).advance ins)

/-! ## Instructions -/

/-- ADDf (R270). -/
def execAddf (f : FpLen) (src dst : Gen) (s : State) : Host.Outcome State Fault Refusal :=
  s.run (fpBinary f (.addf f src dst) src dst (fpAdd f) s)

/-- SUBf: the addition of src with its sign inverted (R271). -/
def execSubf (f : FpLen) (src dst : Gen) (s : State) : Host.Outcome State Fault Refusal :=
  s.run (fpBinary f (.subf f src dst) src dst (fun a b => fpAdd f (fpNegate a) b) s)

/-- MULf (R272). -/
def execMulf (f : FpLen) (src dst : Gen) (s : State) : Host.Outcome State Fault Refusal :=
  s.run (fpBinary f (.mulf f src dst) src dst (fpMul f) s)

/-- DIVf (R273). -/
def execDivf (f : FpLen) (src dst : Gen) (s : State) : Host.Outcome State Fault Refusal :=
  s.run (fpBinary f (.divf f src dst) src dst (fpDiv f) s)

/-- A pattern with its sign bit inverted. -/
def fpFlip (f : FpLen) (v : Nat) : Nat :=
  if fpSign f v then v - 2 ^ fpSignBit f else v + 2 ^ fpSignBit f

/-- NEGf (R274). -/
def execNegf (f : FpLen) (src dst : Gen) (s : State) : Host.Outcome State Fault Refusal :=
  s.run (fpUnary .fp .fp f.bytes f.bytes (.negf f src dst) src dst
    (fun v fsr => if fpReserved f v then fpTrapWith fsr 5 else fpExact fsr (fpFlip f v)) s)

/-- ABSf (R275). -/
def execAbsf (f : FpLen) (src dst : Gen) (s : State) : Host.Outcome State Fault Refusal :=
  s.run (fpUnary .fp .fp f.bytes f.bytes (.absf f src dst) src dst
    (fun v fsr => if fpReserved f v then fpTrapWith fsr 5 else fpExact fsr (v % 2 ^ fpSignBit f)) s)

/-- CMPf (R276). -/
def execCmpf (f : FpLen) (src1 src2 : Gen) (s : State) : Host.Outcome State Fault Refusal :=
  s.run (fpGuard s do
    let (a, s1) ← readOp .fp f.bytes s s src1
    let (b, s2) ← readOp .fp f.bytes s s1 src2
    if fpReserved f a || fpReserved f b then s.fpTrap (fsrWithTt s.fsr 5)
    else
      let (gt, eq) := fpCompare (fpUnpack f a) (fpUnpack f b)
      .ok ((((({ s2 with fsr := fsrWithTt s.fsr 0 } : State).setFlag .z eq).setFlag .n gt).setFlag .l
        false).advance (.cmpf f src1 src2)))

/-- MOVf: any pattern is copied (R277, R257). -/
def execMovf (f : FpLen) (src dst : Gen) (s : State) : Host.Outcome State Fault Refusal :=
  s.run (fpUnary .fp .fp f.bytes f.bytes (.movf f src dst) src dst (fun v fsr => fpExact fsr v) s)

/-- MOVif (R278). -/
def execMovif (i : IntLen) (f : FpLen) (src dst : Gen) (s : State) : Host.Outcome State Fault Refusal :=
  s.run (fpUnary .int .fp i.bytes f.bytes (.movif i f src dst) src dst
    (fun v fsr =>
      if sext i.bits v = 0 then fpExact fsr 0
      else fpResult f (decide (sext i.bits v < 0)) (sext i.bits v).natAbs 1 0 fsr) s)

/-- ROUNDfi: to nearest, ties to even, whatever FSR.RM holds (R279). -/
def execRoundfi (f : FpLen) (i : IntLen) (src dst : Gen) (s : State) : Host.Outcome State Fault Refusal :=
  s.run (fpUnary .fp .int f.bytes i.bytes (.roundfi f i src dst) src dst
    (fun v fsr => fpConvert 0 i (fpUnpack f v) fsr) s)

/-- TRUNCfi (R280). -/
def execTruncfi (f : FpLen) (i : IntLen) (src dst : Gen) (s : State) : Host.Outcome State Fault Refusal :=
  s.run (fpUnary .fp .int f.bytes i.bytes (.truncfi f i src dst) src dst
    (fun v fsr => fpConvert 1 i (fpUnpack f v) fsr) s)

/-- FLOORfi (R283). -/
def execFloorfi (f : FpLen) (i : IntLen) (src dst : Gen) (s : State) : Host.Outcome State Fault Refusal :=
  s.run (fpUnary .fp .int f.bytes i.bytes (.floorfi f i src dst) src dst
    (fun v fsr => fpConvert 3 i (fpUnpack f v) fsr) s)

/-- The conversion of MOVLF: the sign of the zero a negative zero gives is free (R256 states none; log 19). -/
def fpShorten (signOfZero : Bool) (v : FpVal) (fsr : Dword) : FpOut :=
  match v with
  | .reserved => fpTrapWith fsr 5
  | .zero x => fpExact fsr (fpZero .single (x && signOfZero))
  | .num x m e => fpResult .single x m 1 e fsr

/-- MOVLF (R281): Trap (FPU) before dest is evaluated, as in `fpUnary` (log 14). -/
def execMovlf (src dst : Gen) (s : State) : Host.Outcome State Fault Refusal :=
  s.run (fpGuard s do
    let (a, s1) ← readOp .fp 8 s s src
    let (x, s2) := if fpUnpack .double a = .zero true then s1.freshNat 1 else (0, s1)
    let out := fpShorten (decide (x = 1)) (fpUnpack .double a) s.fsr
    match out.result with
    | none => s.fpTrap out.fsr
    | some v => do
      let s3 ← writeOp .fp 4 v s s2 dst
      .ok (({ s3 with fsr := out.fsr } : State).advance (.movlf src dst)))

/-- The conversion of MOVFL: exact, a zero keeps its sign (R282). -/
def fpLengthen (v : FpVal) (fsr : Dword) : FpOut :=
  match v with
  | .reserved => fpTrapWith fsr 5
  | .zero x => fpExact fsr (fpZero .double x)
  | .num x m e => fpResult .double x m 1 e fsr

/-- MOVFL (R282). -/
def execMovfl (src dst : Gen) (s : State) : Host.Outcome State Fault Refusal :=
  s.run (fpUnary .fp .fp 4 8 (.movfl src dst) src dst (fun v fsr => fpLengthen (fpUnpack .single v) fsr) s)

/-- LFSR: implemented bits only (R285). -/
def execLfsr (src : Gen) (s : State) : Host.Outcome State Fault Refusal :=
  s.run (fpGuard s do
    let (v, s1) ← readOp .int 4 s s src
    .ok (({ s1 with fsr := BitVec.ofNat 32 v &&& fsrMask } : State).advance (.lfsr src)))

/-- SFSR (R286). -/
def execSfsr (dst : Gen) (s : State) : Host.Outcome State Fault Refusal :=
  s.run (fpGuard s do
    let s1 ← writeOp .int 4 s.fsr.toNat s s dst
    .ok (s1.advance (.sfsr dst)))

/-- F-BE with op 0011: Trap (FPU), Illegal Instruction (R261). -/
def execFpuIllegal0011 (_ : BitVec 10) (_ : BitVec 2) (s : State) : Host.Outcome State Fault Refusal :=
  s.run (fpGuard s (s.fpTrap (fsrWithTt s.fsr 4)))

/-- F-BE with op 1001: Trap (FPU), Illegal Instruction (R261). -/
def execFpuIllegal1001 (_ : BitVec 10) (_ : BitVec 2) (s : State) : Host.Outcome State Fault Refusal :=
  s.run (fpGuard s (s.fpTrap (fsrWithTt s.fsr 4)))

end Sys2Proof.Machine
end

