-- ==== Sys2Proof/Machine/Integer.lean ====
section
/-! DEFINITION. The integer instructions (40_integer.md). -/
namespace Sys2Proof.Machine

/-- A quick operand sign-extended to the length (R137). -/
def quickValue (i : IntLen) (q : BitVec 4) : Nat := trunc i.bits q.toInt

/-- A quick operand as an immediate of the length. -/
def quickGen (i : IntLen) (q : BitVec 4) : Gen := .imm (BitVec.ofNat 64 (quickValue i q))

/-- ADDi (R210). -/
def execAddi (i : IntLen) (src dst : Gen) (s : State) : Host.Outcome State Fault Refusal :=
  s.run (rmwShape i.bytes i.bytes (.addi i src dst) src dst
    (fun a d w => ((d + a) % 2 ^ i.bits, addFlags i.bits d a 0 w)) s)

/-- ADDQi (R211). -/
def execAddqi (i : IntLen) (q : BitVec 4) (dst : Gen) (s : State) : Host.Outcome State Fault Refusal :=
  s.run (rmwShape i.bytes i.bytes (.addqi i q dst) (quickGen i q) dst
    (fun a d w => ((d + a) % 2 ^ i.bits, addFlags i.bits d a 0 w)) s)

/-- ADDCi (R212). -/
def execAddci (i : IntLen) (src dst : Gen) (s : State) : Host.Outcome State Fault Refusal :=
  s.run (rmwShape i.bytes i.bytes (.addci i src dst) src dst
    (fun a d w => ((d + a + (flag w .c).toNat) % 2 ^ i.bits, addFlags i.bits d a (flag w .c).toNat w)) s)

/-- SUBi (R213). -/
def execSubi (i : IntLen) (src dst : Gen) (s : State) : Host.Outcome State Fault Refusal :=
  s.run (rmwShape i.bytes i.bytes (.subi i src dst) src dst
    (fun a d w => (trunc i.bits ((d : Int) - a), subFlags i.bits d a 0 w)) s)

/-- SUBCi (R214). -/
def execSubci (i : IntLen) (src dst : Gen) (s : State) : Host.Outcome State Fault Refusal :=
  s.run (rmwShape i.bytes i.bytes (.subci i src dst) src dst
    (fun a d w => (trunc i.bits ((d : Int) - a - (flag w .c).toNat), subFlags i.bits d a (flag w .c).toNat w)) s)

/-- NEGi (R215). -/
def execNegi (i : IntLen) (src dst : Gen) (s : State) : Host.Outcome State Fault Refusal :=
  s.run (moveShape .int .int i.bytes i.bytes (.negi i src dst) src dst
    (fun a w => (trunc i.bits (-(a : Int)), subFlags i.bits 0 a 0 w)) s)

/-- ABSi (R216). -/
def execAbsi (i : IntLen) (src dst : Gen) (s : State) : Host.Outcome State Fault Refusal :=
  s.run (moveShape .int .int i.bytes i.bytes (.absi i src dst) src dst
    (fun a w => (if a < 2 ^ (i.bits - 1) then a else trunc i.bits (-(a : Int)),
      putFlag w .f (decide (a = 2 ^ (i.bits - 1))))) s)

/-- MULi (R217). -/
def execMuli (i : IntLen) (src dst : Gen) (s : State) : Host.Outcome State Fault Refusal :=
  s.run (rmwShape i.bytes i.bytes (.muli i src dst) src dst (fun a d w => ((d * a) % 2 ^ i.bits, w)) s)

/-- MEIi (R218): only the low half of dest is read. -/
def execMeii (i : IntLen) (src dst : Gen) (s : State) : Host.Outcome State Fault Refusal :=
  s.run do
    let (a, s1) ← readOp .int i.bytes s s src
    let l ← locate .int s s1 dst
    let lo ← s1.readLow i.bytes l
    let s2 ← s1.writePair i.bytes (a * lo % 2 ^ i.bits) (a * lo / 2 ^ i.bits) l
    .ok (s2.advance (.meii i src dst))

/-- The shape of DIVi, MODi, QUOi and REMi: signed operands, Trap (DVZ) on a zero divisor once both operands are read
(R203, R512, D8). -/
def divShape (i : IntLen) (ins : Instr) (src dst : Gen) (f : Int → Int → Int) (s : State) : Res State := do
  let (a, s1) ← readOp .int i.bytes s s src
  let l ← locate .int s s1 dst
  let d ← s1.readLoc i.bytes l
  if a = 0 then s.trap .dvz
  else do
    let s2 ← s1.writeLoc i.bytes (trunc i.bits (f (sext i.bits d) (sext i.bits a))) l
    .ok (s2.advance ins)

/-- DIVi: the quotient rounded toward minus infinity (R219; the most negative value by -1: log 18). -/
def execDivi (i : IntLen) (src dst : Gen) (s : State) : Host.Outcome State Fault Refusal :=
  s.run (divShape i (.divi i src dst) src dst (fun d a => d.fdiv a) s)

/-- MODi: the remainder of DIVi (R220). -/
def execModi (i : IntLen) (src dst : Gen) (s : State) : Host.Outcome State Fault Refusal :=
  s.run (divShape i (.modi i src dst) src dst (fun d a => d - a * d.fdiv a) s)

/-- QUOi: the quotient rounded toward zero (R221). -/
def execQuoi (i : IntLen) (src dst : Gen) (s : State) : Host.Outcome State Fault Refusal :=
  s.run (divShape i (.quoi i src dst) src dst (fun d a => d.tdiv a) s)

/-- REMi: the remainder of QUOi (R222). -/
def execRemi (i : IntLen) (src dst : Gen) (s : State) : Host.Outcome State Fault Refusal :=
  s.run (divShape i (.remi i src dst) src dst (fun d a => d - a * d.tdiv a) s)

/-- DEIi (R223): unsigned; Trap (DVZ) on a zero divisor once both operands are read (R512, D8); both halves are free
where the quotient does not fit (U17). -/
def execDeii (i : IntLen) (src dst : Gen) (s : State) : Host.Outcome State Fault Refusal :=
  s.run do
    let (a, s1) ← readOp .int i.bytes s s src
    let l ← locate .int s s1 dst
    let (lo, hi) ← s1.readPair i.bytes l
    if a = 0 then s.trap .dvz
    else do
      let d := lo + 2 ^ i.bits * hi
      if d / a < 2 ^ i.bits then do
        let s2 ← s1.writePair i.bytes (d % a) (d / a) l
        .ok (s2.advance (.deii i src dst))
      else do
        let (v, s2) := s1.freshNat (2 * i.bits)
        let s3 ← s2.writePair i.bytes (v % 2 ^ i.bits) (v / 2 ^ i.bits) l
        .ok (s3.advance (.deii i src dst))

/-- MOVi (R224). -/
def execMovi (i : IntLen) (src dst : Gen) (s : State) : Host.Outcome State Fault Refusal :=
  s.run (moveShape .int .int i.bytes i.bytes (.movi i src dst) src dst (fun a w => (a, w)) s)

/-- MOVQi (R225). -/
def execMovqi (i : IntLen) (q : BitVec 4) (dst : Gen) (s : State) : Host.Outcome State Fault Refusal :=
  s.run (moveShape .int .int i.bytes i.bytes (.movqi i q dst) (quickGen i q) dst (fun a w => (a, w)) s)

/-- MOVXBW (R226). -/
def execMovxbw (src dst : Gen) (s : State) : Host.Outcome State Fault Refusal :=
  s.run (moveShape .int .int 1 2 (.movxbw src dst) src dst (fun a w => (trunc 16 (sext 8 a), w)) s)

/-- MOVXiD (R227); there is no D form (U11). -/
def execMovxid (i : IntLen) (src dst : Gen) (s : State) : Host.Outcome State Fault Refusal :=
  s.run (if i.short then
    moveShape .int .int i.bytes 4 (.movxid i src dst) src dst (fun a w => (trunc 32 (sext i.bits a), w)) s
  else refuseWith (.encoding .fixedField))

/-- MOVZBW (R228). -/
def execMovzbw (src dst : Gen) (s : State) : Host.Outcome State Fault Refusal :=
  s.run (moveShape .int .int 1 2 (.movzbw src dst) src dst (fun a w => (a, w)) s)

/-- MOVZiD (R231); there is no D form (U11). -/
def execMovzid (i : IntLen) (src dst : Gen) (s : State) : Host.Outcome State Fault Refusal :=
  s.run (if i.short then
    moveShape .int .int i.bytes 4 (.movzid i src dst) src dst (fun a w => (a, w)) s
  else refuseWith (.encoding .fixedField))

/-- CMPi (R229). -/
def execCmpi (i : IntLen) (src1 src2 : Gen) (s : State) : Host.Outcome State Fault Refusal :=
  s.run (compareShape i.bytes (.cmpi i src1 src2) src1 src2 (fun a b w => cmpFlags i.bits a b w) s)

/-- CMPQi (R230). -/
def execCmpqi (i : IntLen) (q : BitVec 4) (src : Gen) (s : State) : Host.Outcome State Fault Refusal :=
  s.run (compareShape i.bytes (.cmpqi i q src) (quickGen i q) src (fun a b w => cmpFlags i.bits a b w) s)

end Sys2Proof.Machine
end

