-- ==== Sys2Proof/Machine/Logical.lean ====
section
/-! DEFINITION. The logical, shift and Boolean instructions (43_logical_shift.md). -/
namespace Sys2Proof.Machine

/-! ## Bitwise -/

/-- ANDi (R302). -/
def execAndi (i : IntLen) (src dst : Gen) (s : State) : Host.Outcome State Fault Refusal :=
  s.run (rmwShape i.bytes i.bytes (.andi i src dst) src dst (fun a d w => (d &&& a, w)) s)

/-- ORi (R303). -/
def execOri (i : IntLen) (src dst : Gen) (s : State) : Host.Outcome State Fault Refusal :=
  s.run (rmwShape i.bytes i.bytes (.ori i src dst) src dst (fun a d w => (d ||| a, w)) s)

/-- BICi (R304): dest AND NOT src. -/
def execBici (i : IntLen) (src dst : Gen) (s : State) : Host.Outcome State Fault Refusal :=
  s.run (rmwShape i.bytes i.bytes (.bici i src dst) src dst (fun a d w => (d &&& (2 ^ i.bits - 1 - a), w)) s)

/-- XORi (R305). -/
def execXori (i : IntLen) (src dst : Gen) (s : State) : Host.Outcome State Fault Refusal :=
  s.run (rmwShape i.bytes i.bytes (.xori i src dst) src dst (fun a d w => (d ^^^ a, w)) s)

/-- COMi (R306). -/
def execComi (i : IntLen) (src dst : Gen) (s : State) : Host.Outcome State Fault Refusal :=
  s.run (moveShape .int .int i.bytes i.bytes (.comi i src dst) src dst (fun a w => (2 ^ i.bits - 1 - a, w)) s)

/-- NOTi (R307): bit 0 complemented. -/
def execNoti (i : IntLen) (src dst : Gen) (s : State) : Host.Outcome State Fault Refusal :=
  s.run (moveShape .int .int i.bytes i.bytes (.noti i src dst) src dst (fun a w => (a ^^^ 1, w)) s)

/-! ## Shifts -/

/-- An arithmetic shift by a count below the length (R308). -/
def shiftArith (bits : Nat) (c : Int) (d : Nat) : Nat :=
  if 0 ≤ c then d * 2 ^ c.toNat % 2 ^ bits else trunc bits ((sext bits d).fdiv (2 ^ (-c).toNat))

/-- A logical shift by a count below the length (R309). -/
def shiftLogical (bits : Nat) (c : Int) (d : Nat) : Nat :=
  if 0 ≤ c then d * 2 ^ c.toNat % 2 ^ bits else d / 2 ^ (-c).toNat

/-- A rotation by a count below the length (R310). -/
def rotate (bits : Nat) (c : Int) (d : Nat) : Nat :=
  let k := (c % bits).toNat
  (d * 2 ^ k ||| d / 2 ^ (bits - k)) % 2 ^ bits

/-- The shape of the shifts: a signed byte count; dest is free where its magnitude is the length or more (R301,
U22). -/
def shiftShape (i : IntLen) (ins : Instr) (cnt dst : Gen) (f : Nat → Int → Nat → Nat) (s : State) : Res State := do
  let (a, s1) ← readOp .int 1 s s cnt
  let l ← locate .int s s1 dst
  let d ← s1.readLoc i.bytes l
  if (sext 8 a).natAbs < i.bits then do
    let s2 ← s1.writeLoc i.bytes (f i.bits (sext 8 a) d) l
    .ok (s2.advance ins)
  else do
    let (v, s2) := s1.freshNat i.bits
    let s3 ← s2.writeLoc i.bytes v l
    .ok (s3.advance ins)

/-- ASHi (R308). -/
def execAshi (i : IntLen) (cnt dst : Gen) (s : State) : Host.Outcome State Fault Refusal :=
  s.run (shiftShape i (.ashi i cnt dst) cnt dst shiftArith s)

/-- LSHi (R309). -/
def execLshi (i : IntLen) (cnt dst : Gen) (s : State) : Host.Outcome State Fault Refusal :=
  s.run (shiftShape i (.lshi i cnt dst) cnt dst shiftLogical s)

/-- ROTi (R310). -/
def execRoti (i : IntLen) (cnt dst : Gen) (s : State) : Host.Outcome State Fault Refusal :=
  s.run (shiftShape i (.roti i cnt dst) cnt dst rotate s)

/-! ## Save condition (R311) -/

/-- The shape of Scondi: dest is 1 where the condition holds, else 0. -/
def scondShape (i : IntLen) (ins : Instr) (k : Cond) (dst : Gen) (s : State) : Res State :=
  moveShape .int .int i.bytes i.bytes ins (.imm 0) dst (fun _ w => ((condTrue k w).toNat, w)) s

/-- SEQi (R311). -/
def execSeqi (i : IntLen) (dst : Gen) (s : State) : Host.Outcome State Fault Refusal :=
  s.run (scondShape i (.seqi i dst) .eq dst s)

/-- SNEi (R311). -/
def execSnei (i : IntLen) (dst : Gen) (s : State) : Host.Outcome State Fault Refusal :=
  s.run (scondShape i (.snei i dst) .ne dst s)

/-- SCSi (R311). -/
def execScsi (i : IntLen) (dst : Gen) (s : State) : Host.Outcome State Fault Refusal :=
  s.run (scondShape i (.scsi i dst) .cs dst s)

/-- SCCi (R311). -/
def execScci (i : IntLen) (dst : Gen) (s : State) : Host.Outcome State Fault Refusal :=
  s.run (scondShape i (.scci i dst) .cc dst s)

/-- SHIi (R311). -/
def execShii (i : IntLen) (dst : Gen) (s : State) : Host.Outcome State Fault Refusal :=
  s.run (scondShape i (.shii i dst) .hi dst s)

/-- SLSi (R311). -/
def execSlsi (i : IntLen) (dst : Gen) (s : State) : Host.Outcome State Fault Refusal :=
  s.run (scondShape i (.slsi i dst) .ls dst s)

/-- SGTi (R311). -/
def execSgti (i : IntLen) (dst : Gen) (s : State) : Host.Outcome State Fault Refusal :=
  s.run (scondShape i (.sgti i dst) .gt dst s)

/-- SLEi (R311). -/
def execSlei (i : IntLen) (dst : Gen) (s : State) : Host.Outcome State Fault Refusal :=
  s.run (scondShape i (.slei i dst) .le dst s)

/-- SFSi (R311). -/
def execSfsi (i : IntLen) (dst : Gen) (s : State) : Host.Outcome State Fault Refusal :=
  s.run (scondShape i (.sfsi i dst) .fs dst s)

/-- SFCi (R311). -/
def execSfci (i : IntLen) (dst : Gen) (s : State) : Host.Outcome State Fault Refusal :=
  s.run (scondShape i (.sfci i dst) .fc dst s)

/-- SLOi (R311). -/
def execSloi (i : IntLen) (dst : Gen) (s : State) : Host.Outcome State Fault Refusal :=
  s.run (scondShape i (.sloi i dst) .lo dst s)

/-- SHSi (R311). -/
def execShsi (i : IntLen) (dst : Gen) (s : State) : Host.Outcome State Fault Refusal :=
  s.run (scondShape i (.shsi i dst) .hs dst s)

/-- SLTi (R311). -/
def execSlti (i : IntLen) (dst : Gen) (s : State) : Host.Outcome State Fault Refusal :=
  s.run (scondShape i (.slti i dst) .lt dst s)

/-- SGEi (R311). -/
def execSgei (i : IntLen) (dst : Gen) (s : State) : Host.Outcome State Fault Refusal :=
  s.run (scondShape i (.sgei i dst) .ge dst s)

end Sys2Proof.Machine
end

