-- ==== Sys2Proof/Machine/Mmu.lean ====
section
/-! DEFINITION. The memory management and custom instructions (49_memory_management_and_custom.md). Translation is off
and the MMU registers are cells (R66, R105, D10; log 11). -/
namespace Sys2Proof.Machine

/-- Trap (UND) without the MMU instruction set, else Trap (ILL) in User Mode, else the body (R482, D14). -/
def mmuGuard (s : State) (body : Res State) : Res State :=
  if !s.cfgM then s.trap .und
  else if s.flag .u then s.trap .ill
  else body

/-- The shape of RDVAL and WRVAL: F takes the MMU's answer, an invalid Level 1 entry aborts (R483, R484). The address is
validated, not accessed, so one outside 0 to 0xFFFFFF is no fault and the MMU's answer decides there too (DESIGN CHOICE:
R84 makes an access there undefined, U2 names the effective address; log 36, unsafe). -/
def validateShape (ins : Instr) (loc : Gen) (s : State) : Res State :=
  mmuGuard s do
    let _ ← addrOf s s loc
    match s.input.mmu with
    | .ok => .ok ((s.setFlag .f false).advance ins)
    | .denied => .ok ((s.setFlag .f true).advance ins)
    | .level1Invalid => s.abort

/-- RDVAL (R483). -/
def execRdval (loc : Gen) (s : State) : Host.Outcome State Fault Refusal := s.run (validateShape (.rdval loc) loc s)

/-- WRVAL (R484). -/
def execWrval (loc : Gen) (s : State) : Host.Outcome State Fault Refusal := s.run (validateShape (.wrval loc) loc s)

/-- An MMU register written (R66, R487). -/
def setMmuReg (m : MmuRegs) (k : MmuReg) (v : Dword) : MmuRegs :=
  match k with
  | .bpr0 => { m with bpr0 := v }
  | .bpr1 => { m with bpr1 := v }
  | .pf0 => { m with pf0 := v }
  | .pf1 => { m with pf1 := v }
  | .sc => { m with sc := v }
  | .msr => { m with msr := v }
  | .bcnt => { m with bcnt := v }
  | .ptb0 => { m with ptb0 := v }
  | .ptb1 => { m with ptb1 := v }
  | .eia => { m with eia := v }

/-- An MMU register read (R66, R488). -/
def getMmuReg (m : MmuRegs) (k : MmuReg) : Dword :=
  match k with
  | .bpr0 => m.bpr0
  | .bpr1 => m.bpr1
  | .pf0 => m.pf0
  | .pf1 => m.pf1
  | .sc => m.sc
  | .msr => m.msr
  | .bcnt => m.bcnt
  | .ptb0 => m.ptb0
  | .ptb1 => m.ptb1
  | .eia => m.eia

/-- LMR (R487). -/
def execLmr (m : MmuReg) (src : Gen) (s : State) : Host.Outcome State Fault Refusal :=
  s.run (mmuGuard s do
    let (v, s1) ← readOp .int 4 s s src
    .ok (({ s1 with mmu := setMmuReg s1.mmu m (BitVec.ofNat 32 v) } : State).advance (.lmr m src)))

/-- SMR (R488). -/
def execSmr (m : MmuReg) (dst : Gen) (s : State) : Host.Outcome State Fault Refusal :=
  s.run (mmuGuard s do
    let s1 ← writeOp .int 4 (getMmuReg s.mmu m).toNat s s dst
    .ok (s1.advance (.smr m dst)))

/-- MOVSUi (R485): both operands are addresses, calculated before the move; with translation off both spaces are one
(R105). -/
def execMovsui (i : IntLen) (src dst : Gen) (s : State) : Host.Outcome State Fault Refusal :=
  s.run (if s.flag .u then s.trap .ill
    else do
      let a ← addrOf s s src
      let b ← addrOf s s dst
      let v ← s.memRead a i.bytes
      let s1 ← s.memWrite b i.bytes v
      .ok (s1.advance (.movsui i src dst)))

/-- MOVUSi (R486): as MOVSUi, but src is read before the address of dest is calculated. -/
def execMovusi (i : IntLen) (src dst : Gen) (s : State) : Host.Outcome State Fault Refusal :=
  s.run (if s.flag .u then s.trap .ill
    else do
      let a ← addrOf s s src
      let v ← s.memRead a i.bytes
      let b ← addrOf s s dst
      let s1 ← s.memWrite b i.bytes v
      .ok (s1.advance (.movusi i src dst)))

/-- Custom instructions with first byte 0x16: Trap (UND) with CFG.C = 0, Trap (ILL) in User Mode, else the Custom
slave's (R491, R492, U27). -/
def execCustom16 (s : State) : Host.Outcome State Fault Refusal :=
  s.run (if !s.cfgC then s.trap .und
    else if s.flag .u then s.trap .ill
    else refuseWith .customSlave)

/-- Custom instructions with first byte 0x36 (R491, R492, U27). -/
def execCustom36 (s : State) : Host.Outcome State Fault Refusal :=
  s.run (if !s.cfgC then s.trap .und else refuseWith .customSlave)

/-- Custom instructions with first byte 0xB6 (R491, R492, U27). -/
def execCustomB6 (s : State) : Host.Outcome State Fault Refusal :=
  s.run (if !s.cfgC then s.trap .und else refuseWith .customSlave)

end Sys2Proof.Machine
end

