-- ==== Sys2Proof/Machine/Service.lean ====
section
/-! DEFINITION. The processor service instructions (48_processor_service.md). -/
namespace Sys2Proof.Machine

/-! ## Effective address -/

/-- ADDR (R440). -/
def execAddr (src dst : Gen) (s : State) : Host.Outcome State Fault Refusal :=
  s.run do
    let a ← addrOf s s src
    let s1 ← writeOp .int 4 a.toNat s s dst
    .ok (s1.advance (.addr src dst))

/-- LXPD (R441): ADDR of a Link Table entry. -/
def execLxpd (d1 d2 : Disp) (dst : Gen) (s : State) : Host.Outcome State Fault Refusal :=
  s.run do
    let a ← addrOf s s (.mode (.ext d1 d2))
    let s1 ← writeOp .int 4 a.toNat s s dst
    .ok (s1.advance (.lxpd d1 d2 dst))

/-! ## Context -/

/-- Push the registers of a list, bit n naming Rn (R443, R180). -/
def saveRegs (l : Byte) : List (Fin 8) → State → Res State
  | [], s => .ok s
  | n :: ns, s =>
    if l.getLsbD n.val then do
      let s1 ← s.push 4 s.r[n].toNat
      saveRegs l ns s1
    else saveRegs l ns s

/-- Pop the registers of a list, bit n naming R(7-n) (R444, R180). -/
def restoreRegs (l : Byte) : List (Fin 8) → State → Res State
  | [], s => .ok s
  | n :: ns, s =>
    if l.getLsbD n.val then do
      let (v, s1) ← s.pop 4
      restoreRegs l ns (s1.setReg (Fin.ofNat 8 (7 - n.val)) (BitVec.ofNat 32 v))
    else restoreRegs l ns s

/-- Bits 0 to 7, in the order a register list is read. -/
def listBits : List (Fin 8) := [0, 1, 2, 3, 4, 5, 6, 7]

/-- SAVE (R443). -/
def execSave (l : Byte) (s : State) : Host.Outcome State Fault Refusal :=
  s.run do
    let s1 ← saveRegs l listBits s
    .ok (s1.advance (.save l))

/-- RESTORE (R444). -/
def execRestore (l : Byte) (s : State) : Host.Outcome State Fault Refusal :=
  s.run do
    let s1 ← restoreRegs l listBits s
    .ok (s1.advance (.restore l))

/-- ENTER (R445). -/
def execEnter (l : Byte) (d : Disp) (s : State) : Host.Outcome State Fault Refusal :=
  s.run do
    let s1 ← s.push 4 s.fp.toNat
    let s2 ← saveRegs l listBits (({ s1 with fp := s1.sp } : State).addSp (-d.value))
    .ok (s2.advance (.enter l d))

/-- EXIT (R446). -/
def execExit (l : Byte) (s : State) : Host.Outcome State Fault Refusal :=
  s.run do
    let s1 ← restoreRegs l listBits s
    let (v, s2) ← (s1.setSp s1.fp).pop 4
    .ok (({ s2 with fp := low24 v } : State).advance (.exit l))

/-! ## Registers and the stack pointer -/

/-- ADJSPi (R447). -/
def execAdjspi (i : IntLen) (src : Gen) (s : State) : Host.Outcome State Fault Refusal :=
  s.run do
    let (v, s1) ← readOp .int i.bytes s s src
    .ok ((s1.addSp (-sext i.bits v)).advance (.adjspi i src))

/-- The shape of BICPSRi and BISPSRi: the word form is privileged, there is no D form (R448, R449, U11). -/
def psrShape (i : IntLen) (ins : Instr) (src : Gen) (f : Word → Word → Word) (s : State) : Res State :=
  if i = .d then refuseWith (.encoding .fixedField)
  else if i = .w ∧ s.flag .u then s.trap .ill
  else do
    let (v, s1) ← readOp .int i.bytes s s src
    .ok (({ s1 with psr := f s.psr (BitVec.ofNat 16 v) &&& psrMask } : State).advance ins)

/-- BICPSRi (R448). -/
def execBicpsri (i : IntLen) (src : Gen) (s : State) : Host.Outcome State Fault Refusal :=
  s.run (psrShape i (.bicpsri i src) src (fun w v => w &&& ~~~v) s)

/-- BISPSRi (R449). -/
def execBispsri (i : IntLen) (src : Gen) (s : State) : Host.Outcome State Fault Refusal :=
  s.run (psrShape i (.bispsri i src) src (fun w v => w ||| v) s)

/-- PSR and INTBASE are privileged registers, whatever the length (R450, R451). -/
def privilegedReg : ProcReg → Bool
  | .psr => true
  | .intbase => true
  | _ => false

/-- Load a processor register with an operand of the length (R450). -/
def State.loadProcReg (s : State) (i : IntLen) (p : ProcReg) (v : Nat) : State :=
  match p with
  | .upsr => s.loadUpsr v
  | .fp => { s with fp := low24 v }
  | .sp => s.setSp (low24 v)
  | .sb => { s with sb := low24 v }
  | .psr => if i = .b then s.loadUpsr v else s.loadPsr v
  | .intbase => { s with intbase := low24 v }
  | .mod => { s with mod := BitVec.ofNat 16 v }

/-- The value of a processor register (R451). -/
def State.procReg (s : State) : ProcReg → Nat
  | .upsr => s.psr.toNat % 256
  | .fp => s.fp.toNat
  | .sp => s.sp.toNat
  | .sb => s.sb.toNat
  | .psr => s.psr.toNat
  | .intbase => s.intbase.toNat
  | .mod => s.mod.toNat

/-- LPRi (R450). -/
def execLpri (i : IntLen) (p : ProcReg) (src : Gen) (s : State) : Host.Outcome State Fault Refusal :=
  s.run (if privilegedReg p && s.flag .u then s.trap .ill
    else do
      let (v, s1) ← readOp .int i.bytes s s src
      .ok ((s1.loadProcReg i p v).advance (.lpri i p src)))

/-- SPRi (R451): SP is read before a Top of Stack push (D16; log 15). -/
def execSpri (i : IntLen) (p : ProcReg) (dst : Gen) (s : State) : Host.Outcome State Fault Refusal :=
  s.run (if privilegedReg p && s.flag .u then s.trap .ill
    else do
      let s1 ← writeOp .int i.bytes (s.procReg p % 2 ^ i.bits) s s dst
      .ok (s1.advance (.spri i p dst)))

/-- SETCFG (R456): only attached devices may be declared (U30; log 21). -/
def execSetcfg (c : BitVec 4) (s : State) : Host.Outcome State Fault Refusal :=
  s.run (if s.flag .u then s.trap .ill
    else if c &&& ~~~Config.attached ≠ 0#4 then refuseWith .deviceAbsent
    else .ok (({ s with cfg := c } : State).advance (.setcfg c)))

/-! ## Miscellaneous -/

/-- NOP (R457). -/
def execNop (s : State) : Host.Outcome State Fault Refusal := .next (s.advance .nop)

/-- WAIT (R458). -/
def execWait (s : State) : Host.Outcome State Fault Refusal :=
  .next (({ s with waiting := true } : State).advance .wait)

/-- DIA (R459): a branch to itself. -/
def execDia (s : State) : Host.Outcome State Fault Refusal := .next (s.branch 0)

end Sys2Proof.Machine
end

