-- ==== Sys2Proof/Machine/Strings.lean ====
section
/-! DEFINITION. The String instructions (45_string.md), one element a step: PC stays at the instruction until it
terminates (R361; log 23). -/
namespace Sys2Proof.Machine

/-- Step 4 of Table 3-4: the Until or While condition ends the instruction (R363). -/
def stringMatch (o : StrOpt) (t m : Nat) : Bool :=
  match o.cond with
  | .none => false
  | .until => decide (t = m)
  | .while => decide (t ≠ m)

/-- An element address moved by one element in the direction of the options (R362). -/
def nextElement (o : StrOpt) (n : Nat) (a : Dword) : Dword :=
  if o.backward then a - BitVec.ofNat 32 n else a + BitVec.ofNat 32 n

/-- Steps 6 and 7: the element is done (R363). `two` says that String 2 moves as well. -/
def State.elementDone (s : State) (o : StrOpt) (n : Nat) (two : Bool) : State :=
  let s1 := s.setReg 1 (nextElement o n s.r[1])
  let s2 := if two then s1.setReg 2 (nextElement o n s.r[2]) else s1
  s2.setReg 0 (s.r[0] - 1#32)

/-- The Terminate of Table 3-4: F written, control passed on (R363). -/
def State.terminate (s : State) (ins : Instr) (f : Bool) : State := (s.setFlag .f f).advance ins

/-- Table 3-4 for one element (R363): `init` is step 1, `act` is step 5 and answers whether to go on. -/
def stringShape (ins : Instr) (n : Nat) (translate : Bool) (o : StrOpt) (two : Bool) (init : Word → Word)
    (act : Nat → State → Res (Bool × State)) (s : State) : Res State :=
  if 0x80000000 ≤ s.r[0].toNat then faultWith .negativeCount
  else
    let s0 : State := { s with psr := init s.psr }
    if s.r[0] = 0#32 then .ok (s0.terminate ins false)
    else do
      let e ← s0.memRead s0.r[1] n
      let t ← if translate then s0.memRead (s0.r[3] + BitVec.ofNat 32 e) 1 else .ok e
      if stringMatch o t (s0.regLow 4 n) then .ok (s0.terminate ins true)
      else do
        let (go, s1) ← act t s0
        if go then .ok (s1.elementDone o n two) else .ok (s1.terminate ins false)

/-- Step 5 of MOVS: store the element. -/
def moveElement (n t : Nat) (s : State) : Res (Bool × State) := do
  let s1 ← s.memWrite s.r[2] n t
  .ok (true, s1)

/-- Step 1 of CMPS. -/
def equalFlags (w : Word) : Word := putFlag (putFlag (putFlag w .z true) .n false) .l false

/-- Step 5 of CMPS: compare with the String 2 element; go on while equal. -/
def compareElement (n t : Nat) (s : State) : Res (Bool × State) := do
  let v ← s.memRead s.r[2] n
  .ok (decide (t = v), { s with psr := cmpFlags (8 * n) t v s.psr })

/-- Step 5 of SKPS. -/
def skipElement (_ : Nat) (s : State) : Res (Bool × State) := .ok (true, s)

/-- MOVSi (R365). -/
def execMovsi (i : IntLen) (o : StrOpt) (s : State) : Host.Outcome State Fault Refusal :=
  s.run (stringShape (.movsi i o) i.bytes false o true id (moveElement i.bytes) s)

/-- MOVST (R366). -/
def execMovst (o : StrOpt) (s : State) : Host.Outcome State Fault Refusal :=
  s.run (stringShape (.movst o) 1 true o true id (moveElement 1) s)

/-- CMPSi (R367). -/
def execCmpsi (i : IntLen) (o : StrOpt) (s : State) : Host.Outcome State Fault Refusal :=
  s.run (stringShape (.cmpsi i o) i.bytes false o true equalFlags (compareElement i.bytes) s)

/-- CMPST (R368). -/
def execCmpst (o : StrOpt) (s : State) : Host.Outcome State Fault Refusal :=
  s.run (stringShape (.cmpst o) 1 true o true equalFlags (compareElement 1) s)

/-- SKPSi (R369). -/
def execSkpsi (i : IntLen) (o : StrOpt) (s : State) : Host.Outcome State Fault Refusal :=
  s.run (stringShape (.skpsi i o) i.bytes false o false id skipElement s)

/-- SKPST (R370). -/
def execSkpst (o : StrOpt) (s : State) : Host.Outcome State Fault Refusal :=
  s.run (stringShape (.skpst o) 1 true o false id skipElement s)

end Sys2Proof.Machine
end

