-- ==== Sys2Proof/Machine/Dispatch.lean ====
section
/-! DEFINITION. Which meaning each instruction has. -/
namespace Sys2Proof.Machine

def exec (i : Instr) (s : State) : Host.Outcome State Fault Refusal :=
  match i with
  | .bsr d => Sys2Proof.Machine.execBsr d s
  | .ret d => Sys2Proof.Machine.execRet d s
  | .cxp d => Sys2Proof.Machine.execCxp d s
  | .rxp d => Sys2Proof.Machine.execRxp d s
  | .rett d => Sys2Proof.Machine.execRett d s
  | .reti => Sys2Proof.Machine.execReti s
  | .save l => Sys2Proof.Machine.execSave l s
  | .restore l => Sys2Proof.Machine.execRestore l s
  | .enter l d => Sys2Proof.Machine.execEnter l d s
  | .exit l => Sys2Proof.Machine.execExit l s
  | .nop => Sys2Proof.Machine.execNop s
  | .wait => Sys2Proof.Machine.execWait s
  | .dia => Sys2Proof.Machine.execDia s
  | .flag => Sys2Proof.Machine.execFlag s
  | .svc => Sys2Proof.Machine.execSvc s
  | .bpt => Sys2Proof.Machine.execBpt s
  | .beq d => Sys2Proof.Machine.execBeq d s
  | .bne d => Sys2Proof.Machine.execBne d s
  | .bcs d => Sys2Proof.Machine.execBcs d s
  | .bcc d => Sys2Proof.Machine.execBcc d s
  | .bhi d => Sys2Proof.Machine.execBhi d s
  | .bls d => Sys2Proof.Machine.execBls d s
  | .bgt d => Sys2Proof.Machine.execBgt d s
  | .ble d => Sys2Proof.Machine.execBle d s
  | .bfs d => Sys2Proof.Machine.execBfs d s
  | .bfc d => Sys2Proof.Machine.execBfc d s
  | .blo d => Sys2Proof.Machine.execBlo d s
  | .bhs d => Sys2Proof.Machine.execBhs d s
  | .blt d => Sys2Proof.Machine.execBlt d s
  | .bge d => Sys2Proof.Machine.execBge d s
  | .br d => Sys2Proof.Machine.execBr d s
  | .addqi il q dst => Sys2Proof.Machine.execAddqi il q dst s
  | .cmpqi il q src => Sys2Proof.Machine.execCmpqi il q src s
  | .spri il p dst => Sys2Proof.Machine.execSpri il p dst s
  | .acbi il q idx d => Sys2Proof.Machine.execAcbi il q idx d s
  | .movqi il q dst => Sys2Proof.Machine.execMovqi il q dst s
  | .lpri il p src => Sys2Proof.Machine.execLpri il p src s
  | .seqi il dst => Sys2Proof.Machine.execSeqi il dst s
  | .snei il dst => Sys2Proof.Machine.execSnei il dst s
  | .scsi il dst => Sys2Proof.Machine.execScsi il dst s
  | .scci il dst => Sys2Proof.Machine.execScci il dst s
  | .shii il dst => Sys2Proof.Machine.execShii il dst s
  | .slsi il dst => Sys2Proof.Machine.execSlsi il dst s
  | .sgti il dst => Sys2Proof.Machine.execSgti il dst s
  | .slei il dst => Sys2Proof.Machine.execSlei il dst s
  | .sfsi il dst => Sys2Proof.Machine.execSfsi il dst s
  | .sfci il dst => Sys2Proof.Machine.execSfci il dst s
  | .sloi il dst => Sys2Proof.Machine.execSloi il dst s
  | .shsi il dst => Sys2Proof.Machine.execShsi il dst s
  | .slti il dst => Sys2Proof.Machine.execSlti il dst s
  | .sgei il dst => Sys2Proof.Machine.execSgei il dst s
  | .cxpd desc => Sys2Proof.Machine.execCxpd desc s
  | .bicpsri il src => Sys2Proof.Machine.execBicpsri il src s
  | .jump dst => Sys2Proof.Machine.execJump dst s
  | .bispsri il src => Sys2Proof.Machine.execBispsri il src s
  | .adjspi il src => Sys2Proof.Machine.execAdjspi il src s
  | .jsr dst => Sys2Proof.Machine.execJsr dst s
  | .casei il src => Sys2Proof.Machine.execCasei il src s
  | .addi il src dst => Sys2Proof.Machine.execAddi il src dst s
  | .cmpi il src1 src2 => Sys2Proof.Machine.execCmpi il src1 src2 s
  | .bici il src dst => Sys2Proof.Machine.execBici il src dst s
  | .addci il src dst => Sys2Proof.Machine.execAddci il src dst s
  | .movi il src dst => Sys2Proof.Machine.execMovi il src dst s
  | .ori il src dst => Sys2Proof.Machine.execOri il src dst s
  | .subi il src dst => Sys2Proof.Machine.execSubi il src dst s
  | .addr src dst => Sys2Proof.Machine.execAddr src dst s
  | .lxpd d1 d2 dst => Sys2Proof.Machine.execLxpd d1 d2 dst s
  | .andi il src dst => Sys2Proof.Machine.execAndi il src dst s
  | .subci il src dst => Sys2Proof.Machine.execSubci il src dst s
  | .tbiti il off base => Sys2Proof.Machine.execTbiti il off base s
  | .xori il src dst => Sys2Proof.Machine.execXori il src dst s
  | .movsi il o => Sys2Proof.Machine.execMovsi il o s
  | .movst o => Sys2Proof.Machine.execMovst o s
  | .cmpsi il o => Sys2Proof.Machine.execCmpsi il o s
  | .cmpst o => Sys2Proof.Machine.execCmpst o s
  | .setcfg c => Sys2Proof.Machine.execSetcfg c s
  | .skpsi il o => Sys2Proof.Machine.execSkpsi il o s
  | .skpst o => Sys2Proof.Machine.execSkpst o s
  | .roti il cnt dst => Sys2Proof.Machine.execRoti il cnt dst s
  | .ashi il cnt dst => Sys2Proof.Machine.execAshi il cnt dst s
  | .cbiti il off base => Sys2Proof.Machine.execCbiti il off base s
  | .cbitii il off base => Sys2Proof.Machine.execCbitii il off base s
  | .lshi il cnt dst => Sys2Proof.Machine.execLshi il cnt dst s
  | .sbiti il off base => Sys2Proof.Machine.execSbiti il off base s
  | .sbitii il off base => Sys2Proof.Machine.execSbitii il off base s
  | .negi il src dst => Sys2Proof.Machine.execNegi il src dst s
  | .noti il src dst => Sys2Proof.Machine.execNoti il src dst s
  | .subpi il src dst => Sys2Proof.Machine.execSubpi il src dst s
  | .absi il src dst => Sys2Proof.Machine.execAbsi il src dst s
  | .comi il src dst => Sys2Proof.Machine.execComi il src dst s
  | .ibiti il off base => Sys2Proof.Machine.execIbiti il off base s
  | .addpi il src dst => Sys2Proof.Machine.execAddpi il src dst s
  | .exti il off base dst len => Sys2Proof.Machine.execExti il off base dst len s
  | .indexi il accum len idx => Sys2Proof.Machine.execIndexi il accum len idx s
  | .cvtp off base dst => Sys2Proof.Machine.execCvtp off base dst s
  | .ffsi il base off => Sys2Proof.Machine.execFfsi il base off s
  | .insi il off src base len => Sys2Proof.Machine.execInsi il off src base len s
  | .movsui il src dst => Sys2Proof.Machine.execMovsui il src dst s
  | .movusi il src dst => Sys2Proof.Machine.execMovusi il src dst s
  | .checki il dst bounds src => Sys2Proof.Machine.execChecki il dst bounds src s
  | .movmi il block1 block2 len => Sys2Proof.Machine.execMovmi il block1 block2 len s
  | .cmpmi il block1 block2 len => Sys2Proof.Machine.execCmpmi il block1 block2 len s
  | .inssi il src base off len => Sys2Proof.Machine.execInssi il src base off len s
  | .extsi il base dst off len => Sys2Proof.Machine.execExtsi il base dst off len s
  | .movxbw src dst => Sys2Proof.Machine.execMovxbw src dst s
  | .movzbw src dst => Sys2Proof.Machine.execMovzbw src dst s
  | .movzid il src dst => Sys2Proof.Machine.execMovzid il src dst s
  | .movxid il src dst => Sys2Proof.Machine.execMovxid il src dst s
  | .muli il src dst => Sys2Proof.Machine.execMuli il src dst s
  | .meii il src dst => Sys2Proof.Machine.execMeii il src dst s
  | .deii il src dst => Sys2Proof.Machine.execDeii il src dst s
  | .quoi il src dst => Sys2Proof.Machine.execQuoi il src dst s
  | .remi il src dst => Sys2Proof.Machine.execRemi il src dst s
  | .modi il src dst => Sys2Proof.Machine.execModi il src dst s
  | .divi il src dst => Sys2Proof.Machine.execDivi il src dst s
  | .rdval loc => Sys2Proof.Machine.execRdval loc s
  | .wrval loc => Sys2Proof.Machine.execWrval loc s
  | .lmr m src => Sys2Proof.Machine.execLmr m src s
  | .smr m dst => Sys2Proof.Machine.execSmr m dst s
  | .movif il f src dst => Sys2Proof.Machine.execMovif il f src dst s
  | .lfsr src => Sys2Proof.Machine.execLfsr src s
  | .movlf src dst => Sys2Proof.Machine.execMovlf src dst s
  | .movfl src dst => Sys2Proof.Machine.execMovfl src dst s
  | .roundfi f il src dst => Sys2Proof.Machine.execRoundfi f il src dst s
  | .truncfi f il src dst => Sys2Proof.Machine.execTruncfi f il src dst s
  | .sfsr dst => Sys2Proof.Machine.execSfsr dst s
  | .floorfi f il src dst => Sys2Proof.Machine.execFloorfi f il src dst s
  | .addf f src dst => Sys2Proof.Machine.execAddf f src dst s
  | .movf f src dst => Sys2Proof.Machine.execMovf f src dst s
  | .cmpf f src1 src2 => Sys2Proof.Machine.execCmpf f src1 src2 s
  | .subf f src dst => Sys2Proof.Machine.execSubf f src dst s
  | .negf f src dst => Sys2Proof.Machine.execNegf f src dst s
  | .divf f src dst => Sys2Proof.Machine.execDivf f src dst s
  | .mulf f src dst => Sys2Proof.Machine.execMulf f src dst s
  | .absf f src dst => Sys2Proof.Machine.execAbsf f src dst s
  | .fpuIllegal0011 hi lo => Sys2Proof.Machine.execFpuIllegal0011 hi lo s
  | .fpuIllegal1001 hi lo => Sys2Proof.Machine.execFpuIllegal1001 hi lo s
  | .custom16 => Sys2Proof.Machine.execCustom16 s
  | .custom36 => Sys2Proof.Machine.execCustom36 s
  | .customB6 => Sys2Proof.Machine.execCustomB6 s

end Sys2Proof.Machine
end

