-- ==== Sys2Proof/Machine/Fetch.lean ====
section
/-! DEFINITION. What happens around an instruction: Reset, waiting, the start of an instruction, its fetch, and the
boundary after it (60_exceptions.md R501 to R515, 10_state.md R51, R67). -/
namespace Sys2Proof.Machine

/-! ## Fetch -/

/-- An address is a device's, not memory's (R97; log 3). -/
def isDevice (a : Nat) : Bool := decide (a = Config.ackAddr) || decide (a = Config.nmiAckAddr)

/-- Up to n bytes of memory from an address, as far as memory goes (R113, D6; log 24). -/
def fetchFrom (m : Memory) : Nat → Nat → List Byte
  | _, 0 => []
  | a, n + 1 => if Config.memSize ≤ a || isDevice a then [] else Memory.read m a :: fetchFrom m (a + 1) n

/-- The bytes an instruction at PC may have (R131). -/
def State.fetchBytes (s : State) : List Byte := fetchFrom s.mem s.pc.toNat maxLength

/-- Why the bytes of an instruction ran out. -/
def State.fetchFault (s : State) : Fault :=
  if isDevice (s.pc.toNat + s.fetchBytes.length) then .deviceAddress else .addressOutOfRange

/-- A first byte whose slave is not enabled: Trap (UND) before anything else is decoded (R265, R482, R491, R543). -/
def slaveDisabled (s : State) (b : Byte) : Bool :=
  ((b == 0xBE#8 || b == 0x3E#8) && !s.cfgF) || (b == 0x1E#8 && !s.cfgM)
    || ((b == 0x16#8 || b == 0x36#8 || b == 0xB6#8) && !s.cfgC)

/-- The start of an instruction: T is copied into P, the interlock is released (R515, R112). -/
def State.begin (s : State) : State := { s with psr := putFlag s.psr .p (s.flag .t), interlock := false }

/-- A falling edge on NMI is latched (R67 item 2, D3; log 9). -/
def State.latchNmi (s : State) : State := { s with nmiPending := s.nmiPending || s.input.nmiEdge }

/-- What cuts this step short, where the environment has it cut (R105, R501; logs 10 and 27). -/
def State.arm (s : State) : State := { s with cut := s.input.cut }

/-- The environment's input to this step is spent. -/
def State.spend (s : State) : State := { s with env := s.env.tail, cut := .never }

/-! ## Boundaries -/

/-- A Reset that found no more write to come before is taken at the end of the step (R501; log 27). -/
def State.lateReset (s : State) : State := if s.cut.reset = none then s else s.resetEvent

/-- The acceptance point at the end of a step: NMI, then INT with I set, then a pending Trace trap (R505, R512,
R515). -/
def State.boundary (s : State) (unfinished : Bool) : Res State :=
  if s.nmiPending then s.interrupt true unfinished
  else if s.input.int && s.flag .i then s.interrupt false unfinished
  else if s.flag .p && !s.waiting && !unfinished then s.traceTrap
  else .ok s

/-- The end of a step. -/
def State.complete (s : State) (unfinished : Bool) : Res State := do
  let s1 ← s.boundary unfinished
  .ok s1.lateReset.spend

/-- The String instructions (R361). -/
def isString : Instr → Bool
  | .movsi _ _ => true
  | .movst _ => true
  | .cmpsi _ _ => true
  | .cmpst _ => true
  | .skpsi _ _ => true
  | .skpst _ => true
  | _ => false

/-- A String instruction that has processed an element and has not terminated: R0 counts it (R363). -/
def unfinishedString (i : Instr) (before after : State) : Bool :=
  isString i && decide (after.r[0] ≠ before.r[0])

/-! ## The start of a step -/

/-- What a step has to do. -/
inductive Start where
  /-- Nothing more: Reset, or waiting. -/
  | over (x : Res State)
  /-- No instruction: an exception taken, or a stop, at fetch. -/
  | taken (x : Res State)
  /-- An instruction to run. -/
  | run (i : Instr) (s : State)

/-- The outcome of bytes that are no instruction (R182, D7). -/
def undecoded (s : State) (e : DecodeError) : Res State :=
  match e with
  | .undefinedInstruction => s.trap .und
  | .truncated => faultWith s.fetchFault
  | .displacementRange => faultWith .displacementRange
  | e => refuseWith (.encoding e)

/-- Fetch and decode at PC, from the state `begin` leaves. -/
def fetchStart (s : State) : Start :=
  match s.fetchBytes with
  | [] => .taken (faultWith s.fetchFault)
  | b :: r =>
    if slaveDisabled s b then .taken (s.trap .und)
    else
      match decode (b :: r) with
      | .ok (i, _) => .run i s
      | .error e => .taken (undecoded s e)

/-- The start of a step (R15). Reset may arrive before it (R501). While waiting the only steps are interrupts, taken at
the acceptance point (R458). -/
def prepare (s : State) : Start :=
  if s.input.cut.reset = some 0 then .over (.ok s.resetEvent.spend)
  else
    let s1 := s.latchNmi.arm
    if s1.waiting then .over (({ s1 with interlock := false } : State).complete false)
    else if s1.cut.abort = some .fetch then .taken (s1.begin.settle (.error (.abort s1.begin)))
    else fetchStart s1.begin

end Sys2Proof.Machine
end

