-- ==== Sys2Proof/Machine/Step.lean ====
section
/-! DEFINITION. One step of the machine (00_scope.md R15). -/
namespace Sys2Proof.Machine

/-- One step: the start of the step, the instruction, the acceptance point after it. -/
def step (s : State) : Host.Outcome State Fault Refusal :=
  match prepare s with
  | .over x => finish x
  | .taken x => finish (x.bind (fun s1 => s1.complete false))
  | .run i s1 =>
    match exec i s1 with
    | .next s2 => finish (s2.complete (unfinishedString i s1 s2))
    | .fault r => .fault r
    | .refused r => .refused r

/-- The instruction whose bits are `w` stored at PC, zeros after it, in a machine that is not waiting and whose
environment is quiet (log 26). -/
def State.withFetchWord (s : State) (nbits w : Nat) : State :=
  { s with
    mem := s.mem.writeBytes s.pc.toNat
      ((littleBytes maxLength (w % 2 ^ nbits)).take (Config.memSize - s.pc.toNat))
    waiting := false
    env := [] }

end Sys2Proof.Machine
end

