-- ==== Sys2Proof/Laws/PerInstr.lean ====
section
/-! SUPPORT. Statements made of every instruction, one lemma per constructor. -/
namespace Sys2Proof.Laws

/-- The length of an instruction is one byte at least and `maxLength` at most (R131). -/
def LengthBound.Statement (i : Instr) : Prop := 1 ≤ instrLength i ∧ instrLength i ≤ maxLength

/-! ## Lengths of the parts -/

theorem encodeDisp_length (d : Disp) : 1 ≤ (encodeDisp d).length ∧ (encodeDisp d).length ≤ 4 := by
  cases d <;> simp [encodeDisp]

theorem encodeBig_length (n v : Nat) : (encodeBig n v).length = n := by
  induction n <;> simp_all [encodeBig]

theorem encodeMode_length (m : Mode) : (encodeMode m).length ≤ 8 := by
  cases m with
  | reg _ => simp [encodeMode]
  | tos => simp [encodeMode]
  | regRel _ d => have := encodeDisp_length d; simp only [encodeMode]; omega
  | absolute d => have := encodeDisp_length d; simp only [encodeMode]; omega
  | frame d => have := encodeDisp_length d; simp only [encodeMode]; omega
  | stack d => have := encodeDisp_length d; simp only [encodeMode]; omega
  | static d => have := encodeDisp_length d; simp only [encodeMode]; omega
  | program d => have := encodeDisp_length d; simp only [encodeMode]; omega
  | frameRel d e =>
    have := encodeDisp_length d; have := encodeDisp_length e; simp only [encodeMode, List.length_append]; omega
  | stackRel d e =>
    have := encodeDisp_length d; have := encodeDisp_length e; simp only [encodeMode, List.length_append]; omega
  | staticRel d e =>
    have := encodeDisp_length d; have := encodeDisp_length e; simp only [encodeMode, List.length_append]; omega
  | ext d e =>
    have := encodeDisp_length d; have := encodeDisp_length e; simp only [encodeMode, List.length_append]; omega

theorem genIndex_length (g : Gen) : (genIndex g).length ≤ 1 := by
  cases g <;> simp [genIndex]

theorem genExt_length {n : Nat} (h : n ≤ 8) (g : Gen) : (genExt n g).length ≤ 8 := by
  cases g with
  | mode m => exact encodeMode_length m
  | scaled _ m _ => exact encodeMode_length m
  | imm v => simpa [genExt, encodeBig_length] using h

theorem tail1_length {n : Nat} (h : n ≤ 8) (g : Gen) : (tail1 n g).length ≤ 9 := by
  have := genIndex_length g
  have := genExt_length h g
  simp only [tail1, List.length_append]; omega

theorem tail2_length {na nb : Nat} (ha : na ≤ 8) (hb : nb ≤ 8) (a b : Gen) : (tail2 na nb a b).length ≤ 18 := by
  have := genIndex_length a
  have := genIndex_length b
  have := genExt_length ha a
  have := genExt_length hb b
  simp only [tail2, List.length_append]; omega

theorem IntLen.bytes_le (i : IntLen) : i.bytes ≤ 8 := by cases i <;> decide

theorem FpLen.bytes_le (f : FpLen) : f.bytes ≤ 8 := by cases f <;> decide

/-! ## Lengths of the formats -/

theorem gq_length {op q : Nat} {i : IntLen} {n : Nat} (h : n ≤ 8) (g : Gen) :
    1 ≤ (encodeGQ op q i n g).length ∧ (encodeGQ op q i n g).length ≤ 11 := by
  have := tail1_length h g
  simp only [encodeGQ, basic2, List.length_append, List.length_cons, List.length_nil]; omega

theorem gg_length {op : Nat} {i : IntLen} {na nb : Nat} (ha : na ≤ 8) (hb : nb ≤ 8) (a b : Gen) :
    1 ≤ (encodeGG op i na nb a b).length ∧ (encodeGG op i na nb a b).length ≤ 20 := by
  have := tail2_length ha hb a b
  simp only [encodeGG, basic2, List.length_append, List.length_cons, List.length_nil]; omega

theorem e4_length {fb op ic na nb : Nat} (ha : na ≤ 8) (hb : nb ≤ 8) (a b : Gen) :
    1 ≤ (encode4E fb op ic na nb a b).length ∧ (encode4E fb op ic na nb a b).length ≤ 21 := by
  have := tail2_length ha hb a b
  simp only [encode4E, basic3, List.length_append, List.length_cons, List.length_nil]; omega

theorem e2_length {fb b10 reg ic na nb : Nat} (ha : na ≤ 8) (hb : nb ≤ 8) (a b : Gen) :
    1 ≤ (encode2E fb b10 reg ic na nb a b).length ∧ (encode2E fb b10 reg ic na nb a b).length ≤ 21 := by
  have := tail2_length ha hb a b
  simp only [encode2E, basic3, List.length_append, List.length_cons, List.length_nil]; omega

theorem e1_length {op short n : Nat} (h : n ≤ 8) (g : Gen) :
    1 ≤ (encode1E op short g n).length ∧ (encode1E op short g n).length ≤ 12 := by
  have := tail1_length h g
  simp only [encode1E, basic3, List.length_append, List.length_cons, List.length_nil]; omega

theorem e3_length {op fc ic na nb : Nat} (ha : na ≤ 8) (hb : nb ≤ 8) (a b : Gen) :
    1 ≤ (encode3E op fc ic na nb a b).length ∧ (encode3E op fc ic na nb a b).length ≤ 21 := by
  have := tail2_length ha hb a b
  simp only [encode3E, basic3, List.length_append, List.length_cons, List.length_nil]; omega

theorem be_length {op : Nat} {f : FpLen} (a b : Gen) :
    1 ≤ (encodeBE op f a b).length ∧ (encodeBE op f a b).length ≤ 21 := by
  have := tail2_length (FpLen.bytes_le f) (FpLen.bytes_le f) a b
  simp only [encodeBE, basic3, List.length_append, List.length_cons, List.length_nil]; omega

/-- A byte list with one byte at least and n at most keeps to the bound when a short tail follows. -/
theorem bound_append {n : Nat} {l t : List Byte} (hl : 1 ≤ l.length ∧ l.length ≤ n) (ht : t.length ≤ 4)
    (hn : n ≤ 21) : 1 ≤ (l ++ t).length ∧ (l ++ t).length ≤ maxLength := by
  simp only [List.length_append, maxLength]; omega

/-- A byte list within a shorter bound. -/
theorem bound_weaken {n : Nat} {l : List Byte} (hl : 1 ≤ l.length ∧ l.length ≤ n) (hn : n ≤ 21) :
    1 ≤ l.length ∧ l.length ≤ maxLength := by
  simp only [maxLength]; omega

/-! ## One lemma per instruction -/

theorem LengthBound.bsr (d : Disp) : LengthBound.Statement (.bsr d) :=
    bound_append (n := 1) (l := [_]) ⟨by simp, by simp⟩ (encodeDisp_length d).2 (by decide)
theorem LengthBound.ret (d : Disp) : LengthBound.Statement (.ret d) :=
    bound_append (n := 1) (l := [_]) ⟨by simp, by simp⟩ (encodeDisp_length d).2 (by decide)
theorem LengthBound.cxp (d : Disp) : LengthBound.Statement (.cxp d) :=
    bound_append (n := 1) (l := [_]) ⟨by simp, by simp⟩ (encodeDisp_length d).2 (by decide)
theorem LengthBound.rxp (d : Disp) : LengthBound.Statement (.rxp d) :=
    bound_append (n := 1) (l := [_]) ⟨by simp, by simp⟩ (encodeDisp_length d).2 (by decide)
theorem LengthBound.rett (d : Disp) : LengthBound.Statement (.rett d) :=
    bound_append (n := 1) (l := [_]) ⟨by simp, by simp⟩ (encodeDisp_length d).2 (by decide)
theorem LengthBound.reti : LengthBound.Statement (.reti) := ⟨by decide, by decide⟩
theorem LengthBound.save (l : Byte) : LengthBound.Statement (.save l) :=
    bound_weaken (n := 2) (l := [_, _]) ⟨by simp, by simp⟩ (by decide)
theorem LengthBound.restore (l : Byte) : LengthBound.Statement (.restore l) :=
    bound_weaken (n := 2) (l := [_, _]) ⟨by simp, by simp⟩ (by decide)
theorem LengthBound.enter (l : Byte) (d : Disp) : LengthBound.Statement (.enter l d) :=
    bound_append (n := 2) (l := [_, _]) ⟨by simp, by simp⟩ (encodeDisp_length d).2 (by decide)
theorem LengthBound.exit (l : Byte) : LengthBound.Statement (.exit l) :=
    bound_weaken (n := 2) (l := [_, _]) ⟨by simp, by simp⟩ (by decide)
theorem LengthBound.nop : LengthBound.Statement (.nop) := ⟨by decide, by decide⟩
theorem LengthBound.wait : LengthBound.Statement (.wait) := ⟨by decide, by decide⟩
theorem LengthBound.dia : LengthBound.Statement (.dia) := ⟨by decide, by decide⟩
theorem LengthBound.flag : LengthBound.Statement (.flag) := ⟨by decide, by decide⟩
theorem LengthBound.svc : LengthBound.Statement (.svc) := ⟨by decide, by decide⟩
theorem LengthBound.bpt : LengthBound.Statement (.bpt) := ⟨by decide, by decide⟩
theorem LengthBound.beq (d : Disp) : LengthBound.Statement (.beq d) :=
    bound_append (n := 1) (l := [_]) ⟨by simp, by simp⟩ (encodeDisp_length d).2 (by decide)
theorem LengthBound.bne (d : Disp) : LengthBound.Statement (.bne d) :=
    bound_append (n := 1) (l := [_]) ⟨by simp, by simp⟩ (encodeDisp_length d).2 (by decide)
theorem LengthBound.bcs (d : Disp) : LengthBound.Statement (.bcs d) :=
    bound_append (n := 1) (l := [_]) ⟨by simp, by simp⟩ (encodeDisp_length d).2 (by decide)
theorem LengthBound.bcc (d : Disp) : LengthBound.Statement (.bcc d) :=
    bound_append (n := 1) (l := [_]) ⟨by simp, by simp⟩ (encodeDisp_length d).2 (by decide)
theorem LengthBound.bhi (d : Disp) : LengthBound.Statement (.bhi d) :=
    bound_append (n := 1) (l := [_]) ⟨by simp, by simp⟩ (encodeDisp_length d).2 (by decide)
theorem LengthBound.bls (d : Disp) : LengthBound.Statement (.bls d) :=
    bound_append (n := 1) (l := [_]) ⟨by simp, by simp⟩ (encodeDisp_length d).2 (by decide)
theorem LengthBound.bgt (d : Disp) : LengthBound.Statement (.bgt d) :=
    bound_append (n := 1) (l := [_]) ⟨by simp, by simp⟩ (encodeDisp_length d).2 (by decide)
theorem LengthBound.ble (d : Disp) : LengthBound.Statement (.ble d) :=
    bound_append (n := 1) (l := [_]) ⟨by simp, by simp⟩ (encodeDisp_length d).2 (by decide)
theorem LengthBound.bfs (d : Disp) : LengthBound.Statement (.bfs d) :=
    bound_append (n := 1) (l := [_]) ⟨by simp, by simp⟩ (encodeDisp_length d).2 (by decide)
theorem LengthBound.bfc (d : Disp) : LengthBound.Statement (.bfc d) :=
    bound_append (n := 1) (l := [_]) ⟨by simp, by simp⟩ (encodeDisp_length d).2 (by decide)
theorem LengthBound.blo (d : Disp) : LengthBound.Statement (.blo d) :=
    bound_append (n := 1) (l := [_]) ⟨by simp, by simp⟩ (encodeDisp_length d).2 (by decide)
theorem LengthBound.bhs (d : Disp) : LengthBound.Statement (.bhs d) :=
    bound_append (n := 1) (l := [_]) ⟨by simp, by simp⟩ (encodeDisp_length d).2 (by decide)
theorem LengthBound.blt (d : Disp) : LengthBound.Statement (.blt d) :=
    bound_append (n := 1) (l := [_]) ⟨by simp, by simp⟩ (encodeDisp_length d).2 (by decide)
theorem LengthBound.bge (d : Disp) : LengthBound.Statement (.bge d) :=
    bound_append (n := 1) (l := [_]) ⟨by simp, by simp⟩ (encodeDisp_length d).2 (by decide)
theorem LengthBound.br (d : Disp) : LengthBound.Statement (.br d) :=
    bound_append (n := 1) (l := [_]) ⟨by simp, by simp⟩ (encodeDisp_length d).2 (by decide)
theorem LengthBound.addqi (i : IntLen) (q : BitVec 4) (dst : Gen) : LengthBound.Statement (.addqi i q dst) :=
    bound_weaken (gq_length (by decide) _) (by decide)
theorem LengthBound.cmpqi (i : IntLen) (q : BitVec 4) (src : Gen) : LengthBound.Statement (.cmpqi i q src) :=
    bound_weaken (gq_length (IntLen.bytes_le i) _) (by decide)
theorem LengthBound.spri (i : IntLen) (p : ProcReg) (dst : Gen) : LengthBound.Statement (.spri i p dst) :=
    bound_weaken (gq_length (by decide) _) (by decide)
theorem LengthBound.acbi (i : IntLen) (q : BitVec 4) (idx : Gen) (d : Disp) : LengthBound.Statement (.acbi i q idx d) :=
    bound_append (gq_length (by decide) _) (encodeDisp_length _).2 (by decide)
theorem LengthBound.movqi (i : IntLen) (q : BitVec 4) (dst : Gen) : LengthBound.Statement (.movqi i q dst) :=
    bound_weaken (gq_length (by decide) _) (by decide)
theorem LengthBound.lpri (i : IntLen) (p : ProcReg) (src : Gen) : LengthBound.Statement (.lpri i p src) :=
    bound_weaken (gq_length (IntLen.bytes_le i) _) (by decide)
theorem LengthBound.seqi (i : IntLen) (dst : Gen) : LengthBound.Statement (.seqi i dst) :=
    bound_weaken (gq_length (by decide) _) (by decide)
theorem LengthBound.snei (i : IntLen) (dst : Gen) : LengthBound.Statement (.snei i dst) :=
    bound_weaken (gq_length (by decide) _) (by decide)
theorem LengthBound.scsi (i : IntLen) (dst : Gen) : LengthBound.Statement (.scsi i dst) :=
    bound_weaken (gq_length (by decide) _) (by decide)
theorem LengthBound.scci (i : IntLen) (dst : Gen) : LengthBound.Statement (.scci i dst) :=
    bound_weaken (gq_length (by decide) _) (by decide)
theorem LengthBound.shii (i : IntLen) (dst : Gen) : LengthBound.Statement (.shii i dst) :=
    bound_weaken (gq_length (by decide) _) (by decide)
theorem LengthBound.slsi (i : IntLen) (dst : Gen) : LengthBound.Statement (.slsi i dst) :=
    bound_weaken (gq_length (by decide) _) (by decide)
theorem LengthBound.sgti (i : IntLen) (dst : Gen) : LengthBound.Statement (.sgti i dst) :=
    bound_weaken (gq_length (by decide) _) (by decide)
theorem LengthBound.slei (i : IntLen) (dst : Gen) : LengthBound.Statement (.slei i dst) :=
    bound_weaken (gq_length (by decide) _) (by decide)
theorem LengthBound.sfsi (i : IntLen) (dst : Gen) : LengthBound.Statement (.sfsi i dst) :=
    bound_weaken (gq_length (by decide) _) (by decide)
theorem LengthBound.sfci (i : IntLen) (dst : Gen) : LengthBound.Statement (.sfci i dst) :=
    bound_weaken (gq_length (by decide) _) (by decide)
theorem LengthBound.sloi (i : IntLen) (dst : Gen) : LengthBound.Statement (.sloi i dst) :=
    bound_weaken (gq_length (by decide) _) (by decide)
theorem LengthBound.shsi (i : IntLen) (dst : Gen) : LengthBound.Statement (.shsi i dst) :=
    bound_weaken (gq_length (by decide) _) (by decide)
theorem LengthBound.slti (i : IntLen) (dst : Gen) : LengthBound.Statement (.slti i dst) :=
    bound_weaken (gq_length (by decide) _) (by decide)
theorem LengthBound.sgei (i : IntLen) (dst : Gen) : LengthBound.Statement (.sgei i dst) :=
    bound_weaken (gq_length (by decide) _) (by decide)
theorem LengthBound.cxpd (desc : Gen) : LengthBound.Statement (.cxpd desc) :=
    bound_weaken (gq_length (by decide) _) (by decide)
theorem LengthBound.bicpsri (i : IntLen) (src : Gen) : LengthBound.Statement (.bicpsri i src) :=
    bound_weaken (gq_length (IntLen.bytes_le i) _) (by decide)
theorem LengthBound.jump (dst : Gen) : LengthBound.Statement (.jump dst) :=
    bound_weaken (gq_length (by decide) _) (by decide)
theorem LengthBound.bispsri (i : IntLen) (src : Gen) : LengthBound.Statement (.bispsri i src) :=
    bound_weaken (gq_length (IntLen.bytes_le i) _) (by decide)
theorem LengthBound.adjspi (i : IntLen) (src : Gen) : LengthBound.Statement (.adjspi i src) :=
    bound_weaken (gq_length (IntLen.bytes_le i) _) (by decide)
theorem LengthBound.jsr (dst : Gen) : LengthBound.Statement (.jsr dst) :=
    bound_weaken (gq_length (by decide) _) (by decide)
theorem LengthBound.casei (i : IntLen) (src : Gen) : LengthBound.Statement (.casei i src) :=
    bound_weaken (gq_length (IntLen.bytes_le i) _) (by decide)
theorem LengthBound.addi (i : IntLen) (src dst : Gen) : LengthBound.Statement (.addi i src dst) :=
    bound_weaken (gg_length (IntLen.bytes_le i) (by decide) _ _) (by decide)
theorem LengthBound.cmpi (i : IntLen) (src1 src2 : Gen) : LengthBound.Statement (.cmpi i src1 src2) :=
    bound_weaken (gg_length (IntLen.bytes_le i) (IntLen.bytes_le i) _ _) (by decide)
theorem LengthBound.bici (i : IntLen) (src dst : Gen) : LengthBound.Statement (.bici i src dst) :=
    bound_weaken (gg_length (IntLen.bytes_le i) (by decide) _ _) (by decide)
theorem LengthBound.addci (i : IntLen) (src dst : Gen) : LengthBound.Statement (.addci i src dst) :=
    bound_weaken (gg_length (IntLen.bytes_le i) (by decide) _ _) (by decide)
theorem LengthBound.movi (i : IntLen) (src dst : Gen) : LengthBound.Statement (.movi i src dst) :=
    bound_weaken (gg_length (IntLen.bytes_le i) (by decide) _ _) (by decide)
theorem LengthBound.ori (i : IntLen) (src dst : Gen) : LengthBound.Statement (.ori i src dst) :=
    bound_weaken (gg_length (IntLen.bytes_le i) (by decide) _ _) (by decide)
theorem LengthBound.subi (i : IntLen) (src dst : Gen) : LengthBound.Statement (.subi i src dst) :=
    bound_weaken (gg_length (IntLen.bytes_le i) (by decide) _ _) (by decide)
theorem LengthBound.addr (src dst : Gen) : LengthBound.Statement (.addr src dst) :=
    bound_weaken (gg_length (by decide) (by decide) _ _) (by decide)
theorem LengthBound.lxpd (d1 d2 : Disp) (dst : Gen) : LengthBound.Statement (.lxpd d1 d2 dst) :=
    bound_weaken (gg_length (by decide) (by decide) _ _) (by decide)
theorem LengthBound.andi (i : IntLen) (src dst : Gen) : LengthBound.Statement (.andi i src dst) :=
    bound_weaken (gg_length (IntLen.bytes_le i) (by decide) _ _) (by decide)
theorem LengthBound.subci (i : IntLen) (src dst : Gen) : LengthBound.Statement (.subci i src dst) :=
    bound_weaken (gg_length (IntLen.bytes_le i) (by decide) _ _) (by decide)
theorem LengthBound.tbiti (i : IntLen) (off base : Gen) : LengthBound.Statement (.tbiti i off base) :=
    bound_weaken (gg_length (IntLen.bytes_le i) (by decide) _ _) (by decide)
theorem LengthBound.xori (i : IntLen) (src dst : Gen) : LengthBound.Statement (.xori i src dst) :=
    bound_weaken (gg_length (IntLen.bytes_le i) (by decide) _ _) (by decide)
theorem LengthBound.movsi (i : IntLen) (o : StrOpt) : LengthBound.Statement (.movsi i o) :=
    bound_weaken (n := 3) (l := [_, _, _]) ⟨by simp, by simp⟩ (by decide)
theorem LengthBound.movst (o : StrOpt) : LengthBound.Statement (.movst o) :=
    bound_weaken (n := 3) (l := [_, _, _]) ⟨by simp, by simp⟩ (by decide)
theorem LengthBound.cmpsi (i : IntLen) (o : StrOpt) : LengthBound.Statement (.cmpsi i o) :=
    bound_weaken (n := 3) (l := [_, _, _]) ⟨by simp, by simp⟩ (by decide)
theorem LengthBound.cmpst (o : StrOpt) : LengthBound.Statement (.cmpst o) :=
    bound_weaken (n := 3) (l := [_, _, _]) ⟨by simp, by simp⟩ (by decide)
theorem LengthBound.setcfg (c : BitVec 4) : LengthBound.Statement (.setcfg c) :=
    bound_weaken (n := 3) (l := [_, _, _]) ⟨by simp, by simp⟩ (by decide)
theorem LengthBound.skpsi (i : IntLen) (o : StrOpt) : LengthBound.Statement (.skpsi i o) :=
    bound_weaken (n := 3) (l := [_, _, _]) ⟨by simp, by simp⟩ (by decide)
theorem LengthBound.skpst (o : StrOpt) : LengthBound.Statement (.skpst o) :=
    bound_weaken (n := 3) (l := [_, _, _]) ⟨by simp, by simp⟩ (by decide)
theorem LengthBound.roti (i : IntLen) (cnt dst : Gen) : LengthBound.Statement (.roti i cnt dst) :=
    bound_weaken (e4_length (by decide) (by decide) _ _) (by decide)
theorem LengthBound.ashi (i : IntLen) (cnt dst : Gen) : LengthBound.Statement (.ashi i cnt dst) :=
    bound_weaken (e4_length (by decide) (by decide) _ _) (by decide)
theorem LengthBound.cbiti (i : IntLen) (off base : Gen) : LengthBound.Statement (.cbiti i off base) :=
    bound_weaken (e4_length (IntLen.bytes_le i) (by decide) _ _) (by decide)
theorem LengthBound.cbitii (i : IntLen) (off base : Gen) : LengthBound.Statement (.cbitii i off base) :=
    bound_weaken (e4_length (IntLen.bytes_le i) (by decide) _ _) (by decide)
theorem LengthBound.lshi (i : IntLen) (cnt dst : Gen) : LengthBound.Statement (.lshi i cnt dst) :=
    bound_weaken (e4_length (by decide) (by decide) _ _) (by decide)
theorem LengthBound.sbiti (i : IntLen) (off base : Gen) : LengthBound.Statement (.sbiti i off base) :=
    bound_weaken (e4_length (IntLen.bytes_le i) (by decide) _ _) (by decide)
theorem LengthBound.sbitii (i : IntLen) (off base : Gen) : LengthBound.Statement (.sbitii i off base) :=
    bound_weaken (e4_length (IntLen.bytes_le i) (by decide) _ _) (by decide)
theorem LengthBound.negi (i : IntLen) (src dst : Gen) : LengthBound.Statement (.negi i src dst) :=
    bound_weaken (e4_length (IntLen.bytes_le i) (by decide) _ _) (by decide)
theorem LengthBound.noti (i : IntLen) (src dst : Gen) : LengthBound.Statement (.noti i src dst) :=
    bound_weaken (e4_length (IntLen.bytes_le i) (by decide) _ _) (by decide)
theorem LengthBound.subpi (i : IntLen) (src dst : Gen) : LengthBound.Statement (.subpi i src dst) :=
    bound_weaken (e4_length (IntLen.bytes_le i) (by decide) _ _) (by decide)
theorem LengthBound.absi (i : IntLen) (src dst : Gen) : LengthBound.Statement (.absi i src dst) :=
    bound_weaken (e4_length (IntLen.bytes_le i) (by decide) _ _) (by decide)
theorem LengthBound.comi (i : IntLen) (src dst : Gen) : LengthBound.Statement (.comi i src dst) :=
    bound_weaken (e4_length (IntLen.bytes_le i) (by decide) _ _) (by decide)
theorem LengthBound.ibiti (i : IntLen) (off base : Gen) : LengthBound.Statement (.ibiti i off base) :=
    bound_weaken (e4_length (IntLen.bytes_le i) (by decide) _ _) (by decide)
theorem LengthBound.addpi (i : IntLen) (src dst : Gen) : LengthBound.Statement (.addpi i src dst) :=
    bound_weaken (e4_length (IntLen.bytes_le i) (by decide) _ _) (by decide)
theorem LengthBound.exti (i : IntLen) (off : Fin 8) (base dst : Gen) (len : Disp) : LengthBound.Statement (.exti i off base dst len) :=
    bound_append (e2_length (by decide) (by decide) _ _) (encodeDisp_length _).2 (by decide)
theorem LengthBound.indexi (i : IntLen) (accum : Fin 8) (len idx : Gen) : LengthBound.Statement (.indexi i accum len idx) :=
    bound_weaken (e2_length (IntLen.bytes_le i) (IntLen.bytes_le i) _ _) (by decide)
theorem LengthBound.cvtp (off : Fin 8) (base dst : Gen) : LengthBound.Statement (.cvtp off base dst) :=
    bound_weaken (e2_length (by decide) (by decide) _ _) (by decide)
theorem LengthBound.ffsi (i : IntLen) (base off : Gen) : LengthBound.Statement (.ffsi i base off) :=
    bound_weaken (e2_length (IntLen.bytes_le i) (by decide) _ _) (by decide)
theorem LengthBound.insi (i : IntLen) (off : Fin 8) (src base : Gen) (len : Disp) : LengthBound.Statement (.insi i off src base len) :=
    bound_append (e2_length (IntLen.bytes_le i) (by decide) _ _) (encodeDisp_length _).2 (by decide)
theorem LengthBound.movsui (i : IntLen) (src dst : Gen) : LengthBound.Statement (.movsui i src dst) :=
    bound_weaken (e2_length (by decide) (by decide) _ _) (by decide)
theorem LengthBound.movusi (i : IntLen) (src dst : Gen) : LengthBound.Statement (.movusi i src dst) :=
    bound_weaken (e2_length (by decide) (by decide) _ _) (by decide)
theorem LengthBound.checki (i : IntLen) (dst : Fin 8) (bounds src : Gen) : LengthBound.Statement (.checki i dst bounds src) :=
    bound_weaken (e2_length (by decide) (IntLen.bytes_le i) _ _) (by decide)
theorem LengthBound.movmi (i : IntLen) (block1 block2 : Gen) (len : Disp) : LengthBound.Statement (.movmi i block1 block2 len) :=
    bound_append (e4_length (by decide) (by decide) _ _) (encodeDisp_length _).2 (by decide)
theorem LengthBound.cmpmi (i : IntLen) (block1 block2 : Gen) (len : Disp) : LengthBound.Statement (.cmpmi i block1 block2 len) :=
    bound_append (e4_length (by decide) (by decide) _ _) (encodeDisp_length _).2 (by decide)
theorem LengthBound.inssi (i : IntLen) (src base : Gen) (off : BitVec 3) (len : BitVec 5) : LengthBound.Statement (.inssi i src base off len) :=
    bound_append (e4_length (IntLen.bytes_le i) (by decide) _ _) (by simp) (by decide)
theorem LengthBound.extsi (i : IntLen) (base dst : Gen) (off : BitVec 3) (len : BitVec 5) : LengthBound.Statement (.extsi i base dst off len) :=
    bound_append (e4_length (by decide) (by decide) _ _) (by simp) (by decide)
theorem LengthBound.movxbw (src dst : Gen) : LengthBound.Statement (.movxbw src dst) :=
    bound_weaken (e4_length (by decide) (by decide) _ _) (by decide)
theorem LengthBound.movzbw (src dst : Gen) : LengthBound.Statement (.movzbw src dst) :=
    bound_weaken (e4_length (by decide) (by decide) _ _) (by decide)
theorem LengthBound.movzid (i : IntLen) (src dst : Gen) : LengthBound.Statement (.movzid i src dst) :=
    bound_weaken (e4_length (IntLen.bytes_le i) (by decide) _ _) (by decide)
theorem LengthBound.movxid (i : IntLen) (src dst : Gen) : LengthBound.Statement (.movxid i src dst) :=
    bound_weaken (e4_length (IntLen.bytes_le i) (by decide) _ _) (by decide)
theorem LengthBound.muli (i : IntLen) (src dst : Gen) : LengthBound.Statement (.muli i src dst) :=
    bound_weaken (e4_length (IntLen.bytes_le i) (by decide) _ _) (by decide)
theorem LengthBound.meii (i : IntLen) (src dst : Gen) : LengthBound.Statement (.meii i src dst) :=
    bound_weaken (e4_length (IntLen.bytes_le i) (by decide) _ _) (by decide)
theorem LengthBound.deii (i : IntLen) (src dst : Gen) : LengthBound.Statement (.deii i src dst) :=
    bound_weaken (e4_length (IntLen.bytes_le i) (by decide) _ _) (by decide)
theorem LengthBound.quoi (i : IntLen) (src dst : Gen) : LengthBound.Statement (.quoi i src dst) :=
    bound_weaken (e4_length (IntLen.bytes_le i) (by decide) _ _) (by decide)
theorem LengthBound.remi (i : IntLen) (src dst : Gen) : LengthBound.Statement (.remi i src dst) :=
    bound_weaken (e4_length (IntLen.bytes_le i) (by decide) _ _) (by decide)
theorem LengthBound.modi (i : IntLen) (src dst : Gen) : LengthBound.Statement (.modi i src dst) :=
    bound_weaken (e4_length (IntLen.bytes_le i) (by decide) _ _) (by decide)
theorem LengthBound.divi (i : IntLen) (src dst : Gen) : LengthBound.Statement (.divi i src dst) :=
    bound_weaken (e4_length (IntLen.bytes_le i) (by decide) _ _) (by decide)
theorem LengthBound.rdval (loc : Gen) : LengthBound.Statement (.rdval loc) :=
    bound_weaken (e1_length (by decide) _) (by decide)
theorem LengthBound.wrval (loc : Gen) : LengthBound.Statement (.wrval loc) :=
    bound_weaken (e1_length (by decide) _) (by decide)
theorem LengthBound.lmr (m : MmuReg) (src : Gen) : LengthBound.Statement (.lmr m src) :=
    bound_weaken (e1_length (by decide) _) (by decide)
theorem LengthBound.smr (m : MmuReg) (dst : Gen) : LengthBound.Statement (.smr m dst) :=
    bound_weaken (e1_length (by decide) _) (by decide)
theorem LengthBound.movif (i : IntLen) (f : FpLen) (src dst : Gen) : LengthBound.Statement (.movif i f src dst) :=
    bound_weaken (e3_length (IntLen.bytes_le i) (by decide) _ _) (by decide)
theorem LengthBound.lfsr (src : Gen) : LengthBound.Statement (.lfsr src) :=
    bound_weaken (e3_length (by decide) (by decide) _ _) (by decide)
theorem LengthBound.movlf (src dst : Gen) : LengthBound.Statement (.movlf src dst) :=
    bound_weaken (e3_length (by decide) (by decide) _ _) (by decide)
theorem LengthBound.movfl (src dst : Gen) : LengthBound.Statement (.movfl src dst) :=
    bound_weaken (e3_length (by decide) (by decide) _ _) (by decide)
theorem LengthBound.roundfi (f : FpLen) (i : IntLen) (src dst : Gen) : LengthBound.Statement (.roundfi f i src dst) :=
    bound_weaken (e3_length (FpLen.bytes_le f) (by decide) _ _) (by decide)
theorem LengthBound.truncfi (f : FpLen) (i : IntLen) (src dst : Gen) : LengthBound.Statement (.truncfi f i src dst) :=
    bound_weaken (e3_length (FpLen.bytes_le f) (by decide) _ _) (by decide)
theorem LengthBound.sfsr (dst : Gen) : LengthBound.Statement (.sfsr dst) :=
    bound_weaken (e3_length (by decide) (by decide) _ _) (by decide)
theorem LengthBound.floorfi (f : FpLen) (i : IntLen) (src dst : Gen) : LengthBound.Statement (.floorfi f i src dst) :=
    bound_weaken (e3_length (FpLen.bytes_le f) (by decide) _ _) (by decide)
theorem LengthBound.addf (f : FpLen) (src dst : Gen) : LengthBound.Statement (.addf f src dst) :=
    bound_weaken (be_length _ _) (by decide)
theorem LengthBound.movf (f : FpLen) (src dst : Gen) : LengthBound.Statement (.movf f src dst) :=
    bound_weaken (be_length _ _) (by decide)
theorem LengthBound.cmpf (f : FpLen) (src1 src2 : Gen) : LengthBound.Statement (.cmpf f src1 src2) :=
    bound_weaken (be_length _ _) (by decide)
theorem LengthBound.subf (f : FpLen) (src dst : Gen) : LengthBound.Statement (.subf f src dst) :=
    bound_weaken (be_length _ _) (by decide)
theorem LengthBound.negf (f : FpLen) (src dst : Gen) : LengthBound.Statement (.negf f src dst) :=
    bound_weaken (be_length _ _) (by decide)
theorem LengthBound.divf (f : FpLen) (src dst : Gen) : LengthBound.Statement (.divf f src dst) :=
    bound_weaken (be_length _ _) (by decide)
theorem LengthBound.mulf (f : FpLen) (src dst : Gen) : LengthBound.Statement (.mulf f src dst) :=
    bound_weaken (be_length _ _) (by decide)
theorem LengthBound.absf (f : FpLen) (src dst : Gen) : LengthBound.Statement (.absf f src dst) :=
    bound_weaken (be_length _ _) (by decide)
theorem LengthBound.fpuIllegal0011 (hi : BitVec 10) (lo : BitVec 2) : LengthBound.Statement (.fpuIllegal0011 hi lo) :=
    bound_weaken (n := 3) (l := [_, _, _]) ⟨by simp, by simp⟩ (by decide)
theorem LengthBound.fpuIllegal1001 (hi : BitVec 10) (lo : BitVec 2) : LengthBound.Statement (.fpuIllegal1001 hi lo) :=
    bound_weaken (n := 3) (l := [_, _, _]) ⟨by simp, by simp⟩ (by decide)
theorem LengthBound.custom16 : LengthBound.Statement (.custom16) := ⟨by decide, by decide⟩
theorem LengthBound.custom36 : LengthBound.Statement (.custom36) := ⟨by decide, by decide⟩
theorem LengthBound.customB6 : LengthBound.Statement (.customB6) := ⟨by decide, by decide⟩

end Sys2Proof.Laws
end

