-- ==== Sys2Proof/Safety.lean ====
section
/-! DEFINITION. What claims about the machine are stated in: its invariant, what an instruction leaves unchanged, and
views of operands that are independent of the meanings' own arithmetic. -/
namespace Sys2Proof.Machine

/-! ## The invariant -/

/-- Memory is canonical, and the reserved bits of PSR (R41) and FSR (R56) are zero. -/
def Inv (s : State) : Prop :=
  s.mem.wf = true ∧ s.psr &&& 0xF018#16 = 0#16 ∧ s.fsr &&& 0xFFFF0000#32 = 0#32

/-! ## Unchanged state -/

/-- General registers other than `ks` are unchanged. -/
def SameRegs (ks : List (Fin 8)) (s t : State) : Prop := ∀ k : Fin 8, k ∉ ks → t.r[k] = s.r[k]

/-- Floating-point registers other than `ks` are unchanged. -/
def SameFpRegs (ks : List (Fin 8)) (s t : State) : Prop := ∀ k : Fin 8, k ∉ ks → t.f[k] = s.f[k]

/-- Every flag of PSR other than `ks` is unchanged. -/
def SameFlags (ks : List Flag) (s t : State) : Prop := ∀ k : Flag, k ∉ ks → t.flag k = s.flag k

/-- Every byte of memory is unchanged. -/
def SameMemory (s t : State) : Prop := ∀ a : Nat, t.mem.read a = s.mem.read a

/-- Every byte of memory outside the n bytes at `a` is unchanged. -/
def SameOutside (a n : Nat) (s t : State) : Prop := ∀ x : Nat, x < a ∨ a + n ≤ x → t.mem.read x = s.mem.read x

/-- Both stack pointers are unchanged. -/
def SameStack (s t : State) : Prop := t.sp0 = s.sp0 ∧ t.sp1 = s.sp1

/-- SB, FP, INTBASE and MOD are unchanged. -/
def SameBases (s t : State) : Prop := t.sb = s.sb ∧ t.fp = s.fp ∧ t.intbase = s.intbase ∧ t.mod = s.mod

/-- CFG, the MMU registers, the waiting state, the NMI latch and the environment's inputs are unchanged. -/
def SameSystem (s t : State) : Prop :=
  t.cfg = s.cfg ∧ t.mmu = s.mmu ∧ t.waiting = s.waiting ∧ t.nmiPending = s.nmiPending ∧ t.env = s.env

/-- Every special register and signal of the machine but the stack registers, PSR and PC is unchanged. -/
def SameControl (s t : State) : Prop :=
  SameBases s t ∧ SameSystem s t ∧ t.fsr = s.fsr ∧ t.interlock = s.interlock

/-- Registers, stack pointers, memory and control are unchanged: only PSR and PC may differ. -/
def SameData (s t : State) : Prop :=
  SameRegs [] s t ∧ SameFpRegs [] s t ∧ SameMemory s t ∧ SameStack s t ∧ SameControl s t

/-- Of registers and memory only the n bytes at a location differ: a shorter write keeps the rest of its register
(R21), a double-precision write changes the register and the next one. -/
def OnlyAt (l : Loc) (n : Nat) (s t : State) : Prop :=
  match l with
  | .gpr k =>
    SameRegs [k] s t ∧ t.r[k].toNat / 256 ^ n = s.r[k].toNat / 256 ^ n ∧ SameFpRegs [] s t ∧ SameMemory s t
  | .fpr k => SameRegs [] s t ∧ SameFpRegs (if n = 8 then [k, k + 1] else [k]) s t ∧ SameMemory s t
  | .mem a => SameRegs [] s t ∧ SameFpRegs [] s t ∧ SameOutside a.toNat n s t

/-- As `OnlyAt`, for a 2i operand of n-byte halves (R145 item 3). -/
def OnlyAtPair (l : Loc) (n : Nat) (s t : State) : Prop :=
  match l with
  | .gpr k =>
    SameRegs [k, k + 1] s t ∧ t.r[k].toNat / 256 ^ n = s.r[k].toNat / 256 ^ n ∧
      t.r[k + 1].toNat / 256 ^ n = s.r[k + 1].toNat / 256 ^ n ∧ SameFpRegs [] s t ∧ SameMemory s t
  | .fpr _ => False
  | .mem a => SameRegs [] s t ∧ SameFpRegs [] s t ∧ SameOutside a.toNat (2 * n) s t

/-- PC is at the next sequential instruction, where that is an implemented address (R25, R131). -/
def NextSequential (i : Instr) (s t : State) : Prop :=
  s.pc.toNat + instrLength i < 16777216 → t.pc.toNat = s.pc.toNat + instrLength i

/-- PC has moved by a signed distance, where that gives an implemented address (R402). -/
def Branched (d : Int) (s t : State) : Prop :=
  0 ≤ (s.pc.toNat : Int) + d → (s.pc.toNat : Int) + d < 16777216 → (t.pc.toNat : Int) = s.pc.toNat + d

/-- The selected stack pointer of `t` is a signed number of bytes from that of `s`, where that is an implemented
address, and the other stack pointer is unchanged. -/
def StackMoved (d : Int) (s t : State) : Prop :=
  (0 ≤ (s.sp.toNat : Int) + d → (s.sp.toNat : Int) + d < 16777216 →
    ((if s.flag .s then t.sp1 else t.sp0).toNat : Int) = s.sp.toNat + d) ∧
  (if s.flag .s then t.sp0 = s.sp0 else t.sp1 = s.sp1)

/-- The privileged registers of R69 are unchanged: the upper byte of PSR, INTBASE, CFG, the MMU registers, and SP0
where it is not the selected stack pointer. -/
def SamePrivileged (s t : State) : Prop :=
  t.flag .u = s.flag .u ∧ t.flag .s = s.flag .s ∧ t.flag .p = s.flag .p ∧ t.flag .i = s.flag .i ∧
    t.intbase = s.intbase ∧ t.cfg = s.cfg ∧ t.mmu = s.mmu ∧ (s.flag .s = true → t.sp0 = s.sp0)

/-! ## Views of operands -/

/-- The signed value of an N-bit number (R10, R201). -/
def signed (bits v : Nat) : Int := (BitVec.ofNat bits v).toInt

/-- An integer lies outside the signed N-bit numbers (R200). -/
def Overflows (bits : Nat) (x : Int) : Prop := x < -2 ^ (bits - 1) ∨ 2 ^ (bits - 1) ≤ x

/-- The low N bits of an integer (R10). -/
def wrapped (bits : Nat) (x : Int) : Nat := (BitVec.ofInt bits x).toNat

/-- Digit k of a packed decimal operand (R240). -/
def bcdDigit (v k : Nat) : Nat := v / 16 ^ k % 16

/-- Every digit of an n-byte packed decimal operand is legal (R241). -/
def Decimal (n v : Nat) : Prop := ∀ k < 2 * n, bcdDigit v k ≤ 9

/-- The value of an n-byte packed decimal operand (R240). -/
def decimalValue (n v : Nat) : Nat := ∑ k ∈ Finset.range (2 * n), bcdDigit v k * 10 ^ k

/-- A rational rounded toward zero (R221). -/
def truncated (x : ℚ) : Int := if 0 ≤ x then ⌊x⌋ else ⌈x⌉

/-- The sum of src, dest and a carry in, with C and F (R200). -/
def Added (bits a d cin r : Nat) (w : Word) : Prop :=
  r = (d + a + cin) % 2 ^ bits ∧ (flag w .c = true ↔ 2 ^ bits ≤ d + a + cin) ∧
    (flag w .f = true ↔ Overflows bits (signed bits d + signed bits a + cin))

/-- The difference dest - src - borrow, with C and F (R200). -/
def Subtracted (bits a d bin r : Nat) (w : Word) : Prop :=
  r = wrapped bits ((d : Int) - a - bin) ∧ (flag w .c = true ↔ d < a + bin) ∧
    (flag w .f = true ↔ Overflows bits (signed bits d - signed bits a - bin))

/-- Z, N and L as a comparison of two N-bit numbers sets them (R229). -/
def Compared (bits a b : Nat) (w : Word) : Prop :=
  (flag w .z = true ↔ a = b) ∧ (flag w .n = true ↔ signed bits b < signed bits a) ∧ (flag w .l = true ↔ b < a)

/-- Z = 1, N = 0, L = 0. -/
def EqualFlags (w : Word) : Prop := flag w .z = true ∧ flag w .n = false ∧ flag w .l = false

/-- What holds a bit at a signed offset from a base, in how many bytes, and the bit's number in it (R330). -/
def BitIn (l : Loc) (o : Int) (c : Loc) (n b : Nat) : Prop :=
  match l with
  | .mem ea => ∃ a : Dword, c = .mem a ∧ n = 1 ∧ (a.toNat : Int) = ea.toNat + ⌊(o : ℚ) / 8⌋ ∧ a.toNat < 16777216 ∧
      (b : Int) = o - 8 * ⌊(o : ℚ) / 8⌋
  | reg => c = reg ∧ n = 4 ∧ o < 32 ∧ (b : Int) = o

/-- A location in memory. -/
def inMemory : Loc → Bool
  | .mem _ => true
  | _ => false

/-- The double-word that holds a field of `len` bits at a signed offset from a base, and the field's first bit in it
(R340). -/
def FieldIn (l : Loc) (o : Int) (len : Nat) (c : Loc) (k : Nat) : Prop :=
  k + len ≤ 32 ∧
  match l with
  | .mem ea => ∃ a : Dword, c = .mem a ∧ (a.toNat : Int) = ea.toNat + ⌊(o : ℚ) / 8⌋ ∧ a.toNat < 16777216 ∧
      (k : Int) = o - 8 * ⌊(o : ℚ) / 8⌋
  | reg => c = reg ∧ o < 32 ∧ (k : Int) = o

/-- The number of registers a list names below bit n (R180). -/
def listedBelow (l : Byte) (n : Nat) : Nat := ((List.range n).filter (fun k => l.getLsbD k)).length

/-- The signed distance of an element to the next one (R362). -/
def stride (o : StrOpt) (n : Nat) : Int := if o.backward then -n else n

/-- An Until or While match of an element against R4 (R363 step 4). -/
def Matches (o : StrOpt) (x m : Nat) : Prop := (o.cond = .until ∧ x = m) ∨ (o.cond = .while ∧ x ≠ m)

/-! ## Floating-point values -/

/-- Fraction bits: 23 or 52 (R252, R253). -/
def fracBits : FpLen → Nat
  | .single => 23
  | .double => 52

/-- Exponent bits: 8 or 11. -/
def expBits : FpLen → Nat
  | .single => 8
  | .double => 11

/-- Exponent bias: 127 or 1023. -/
def expBias : FpLen → Int
  | .single => 127
  | .double => 1023

/-- The E field of a pattern. -/
def expField (f : FpLen) (v : Nat) : Nat := v / 2 ^ fracBits f % 2 ^ expBits f

/-- The F field of a pattern. -/
def fracField (f : FpLen) (v : Nat) : Nat := v % 2 ^ fracBits f

/-- The S bit of a pattern is 1. -/
def negative (f : FpLen) (v : Nat) : Bool := v.testBit (fracBits f + expBits f)

/-- A reserved operand (R254). -/
def Reserved (f : FpLen) (v : Nat) : Prop :=
  expField f v = 2 ^ expBits f - 1 ∨ (expField f v = 0 ∧ fracField f v ≠ 0)

/-- The number a pattern that is not reserved stands for (R252, R253). -/
def fpNumber (f : FpLen) (v : Nat) : ℚ :=
  if expField f v = 0 then 0
  else (if negative f v then -1 else 1) * (2 : ℚ) ^ ((expField f v : Int) - expBias f) *
    (1 + (fracField f v : ℚ) / 2 ^ fracBits f)

/-- The least positive normalized number (R258). -/
def fpLeast (f : FpLen) : ℚ := (2 : ℚ) ^ (1 - expBias f)

/-- The greatest normalized number (R259). -/
def fpGreatest (f : FpLen) : ℚ := (2 : ℚ) ^ expBias f * (2 - 1 / 2 ^ fracBits f)

/-- `r` is the pattern that a rounding mode gives for a number: 0 nearest, ties to an even fraction; 1 toward zero;
2 toward plus infinity; 3 toward minus infinity (R57, R255). -/
def Rounds (f : FpLen) (mode : Nat) (x : ℚ) (r : Nat) : Prop :=
  r < 256 ^ f.bytes ∧ ¬ Reserved f r ∧
  match mode with
  | 0 => ∀ p, ¬ Reserved f p → p < 256 ^ f.bytes → |x - fpNumber f r| ≤ |x - fpNumber f p| ∧
      (|x - fpNumber f r| = |x - fpNumber f p| → fpNumber f r ≠ fpNumber f p → r % 2 = 0)
  | 1 => |fpNumber f r| ≤ |x| ∧ 0 ≤ fpNumber f r * x ∧
      ∀ p, ¬ Reserved f p → p < 256 ^ f.bytes → |fpNumber f p| ≤ |x| → |fpNumber f p| ≤ |fpNumber f r|
  | 2 => x ≤ fpNumber f r ∧ ∀ p, ¬ Reserved f p → p < 256 ^ f.bytes → x ≤ fpNumber f p → fpNumber f r ≤ fpNumber f p
  | _ => fpNumber f r ≤ x ∧ ∀ p, ¬ Reserved f p → p < 256 ^ f.bytes → fpNumber f p ≤ x → fpNumber f p ≤ fpNumber f r

/-- A number rounds to a magnitude above the greatest normalized one: nearest from half a unit above it, upward and
downward from just above it, and in every mode from the next power of two (R57, R259). -/
def RoundsOut (f : FpLen) (mode : Nat) (x : ℚ) : Prop :=
  (2 : ℚ) ^ (expBias f + 1) ≤ |x| ∨ (mode = 0 ∧ (2 : ℚ) ^ expBias f * (2 - 1 / 2 ^ (fracBits f + 1)) ≤ |x|) ∨
    (mode = 2 ∧ fpGreatest f < x) ∨ (mode = 3 ∧ x < -fpGreatest f)

/-- A number rounded to an integer: nearest, ties to even (R279). -/
def nearestInt (x : ℚ) (n : Int) : Prop := |x - n| ≤ 1 / 2 ∧ (|x - n| = 1 / 2 → n % 2 = 0)

/-- FSR after an operation: TT written, UF and IF made sticky, every other bit kept (R58). -/
def FsrUpdated (old new : Dword) (tt : Nat) (uf inexact : Bool) : Prop :=
  new.toNat % 8 = tt ∧
    ∀ k, 3 ≤ k → new.getLsbD k = (old.getLsbD k || (uf && k == 4) || (inexact && k == 6))

/-! ## Exceptions -/

/-- Memory once a PSR image, MOD and a return address are pushed on SP0 (R519). -/
def framePushed (s : State) (image : Word) (ra : Nat) : Memory :=
  ((s.mem.writeLE (s.sp0.toNat - 2) 2 image.toNat).writeLE (s.sp0.toNat - 4) 2 s.mod.toNat).writeLE
    (s.sp0.toNat - 8) 4 ra

/-- The Interrupt Stack has room for a frame, the vector's descriptor names a module, and nothing is to cut the
entry short (R519, R92, R526). -/
def ExceptionReady (s : State) (image : Word) (vector ra : Nat) : Prop :=
  s.cut = .never ∧ 8 ≤ s.sp0.toNat ∧ checkAccess (s.sp0.toNat - 8) 8 = .ok () ∧
    checkAccess (s.intbase.toNat + 4 * vector) 4 = .ok () ∧
    (framePushed s image ra).readLE (s.intbase.toNat + 4 * vector) 4 % 65536 < 0xFFF1

/-- The frame is on SP0, and MOD, SB and PC are those of the procedure the vector's descriptor names; nothing but SP0,
MOD, SB, PC, PSR, memory and the interrupt state differs (R511, R519). -/
def ExceptionTaken (s : State) (image : Word) (vector ra : Nat) (t : State) : Prop :=
  t.sp0.toNat + 8 = s.sp0.toNat ∧ t.sp1 = s.sp1 ∧ t.mem.readLE (s.sp0.toNat - 2) 2 = image.toNat ∧
    t.mem.readLE (s.sp0.toNat - 4) 2 = s.mod.toNat ∧ t.mem.readLE (s.sp0.toNat - 8) 4 = ra ∧
    SameOutside (s.sp0.toNat - 8) 8 s t ∧
    (∃ d : Nat, d = t.mem.readLE (s.intbase.toNat + 4 * vector) 4 ∧ t.mod.toNat = d % 65536 ∧
      t.sb.toNat = t.mem.readLE (d % 65536) 4 % 16777216 ∧
      t.pc.toNat = (t.mem.readLE (d % 65536 + 8) 4 + d / 65536) % 16777216) ∧
    SameRegs [] s t ∧ SameFpRegs [] s t ∧ t.fp = s.fp ∧ t.intbase = s.intbase ∧ t.cfg = s.cfg ∧ t.fsr = s.fsr ∧
    t.mmu = s.mmu ∧ t.env = s.env ∧ t.interlock = s.interlock

/-- What Reset leaves whatever it interrupts: PC, PSR and FSR zero, nothing waited for and no interrupt latched (R68,
R501). -/
def AfterReset (t : State) : Prop := t.pc = 0 ∧ t.psr = 0 ∧ t.fsr = 0 ∧ t.waiting = false ∧ t.nmiPending = false

/-- `m` is memory once SAVE has pushed the first k of the registers its list names, and nothing else. -/
def PartlySaved (l : Byte) (k : Nat) (s : State) (m : Memory) : Prop :=
  m.wf = true ∧
    (∀ n : Fin 8, l.getLsbD n.val = true → listedBelow l n.val < k →
      m.readLE (s.sp.toNat - 4 * listedBelow l (n.val + 1)) 4 = s.r[n].toNat) ∧
    ∀ x : Nat, x < s.sp.toNat - 4 * k ∨ s.sp.toNat ≤ x → m.read x = s.mem.read x

/-- The bytes that the first k pushes of an entry take: a PSR image, MOD and a return address (R519). -/
def pushedBytes (k : Nat) : Nat := if k = 0 then 0 else if k = 1 then 2 else if k = 2 then 4 else 8

/-- `m` is memory once an entry that saves the PSR image `image` and PC has made the first k of its pushes on SP0, all
three where k is more, and nothing else (R519). -/
def PartlyFramed (s : State) (image : Word) (k : Nat) (m : Memory) : Prop :=
  m.wf = true ∧ (1 ≤ k → m.readLE (s.sp0.toNat - 2) 2 = image.toNat) ∧
    (2 ≤ k → m.readLE (s.sp0.toNat - 4) 2 = s.mod.toNat) ∧ (3 ≤ k → m.readLE (s.sp0.toNat - 8) 4 = s.pc.toNat) ∧
    ∀ x : Nat, x < s.sp0.toNat - pushedBytes k ∨ s.sp0.toNat ≤ x → m.read x = s.mem.read x

/-- The flags of `w` are those of `v` but for `ks`, which are clear (R523). -/
def Cleared (ks : List Flag) (v w : Word) : Prop :=
  ∀ k : Flag, flag w k = if k ∈ ks then false else flag v k

/-! ## Shapes of claims

Each says that the instruction completes from every state with canonical memory that nothing is to cut short and whose
operands can be read, what it delivers, and that nothing else changes. States: `s` before, `s1` once the source is read,
`t` after. -/

/-- `src read.ns, dest rmw.nd` on integers, where `pre` holds of src and dest. `rel a d w r w'` relates src, dest and
PSR before with dest and PSR after. -/
def RmwClaimIf (pre : Nat → Nat → Prop) (ins : Instr) (ns nd : Nat) (src dst : Gen) (flags : List Flag)
    (rel : Nat → Nat → Word → Nat → Word → Prop) : Prop :=
  ∀ (s s1 : State) (a d : Nat) (l : Loc),
    s.mem.wf = true → s.cut = .never → readOp .int ns s s src = .ok (a, s1) → locate .int s s1 dst = .ok l →
    s1.readLoc nd l = .ok d → pre a d →
    ∃ (t : State) (r : Nat), exec ins s = .next t ∧ t.readLoc nd l = .ok r ∧ rel a d s.psr r t.psr ∧
      OnlyAt l nd s1 t ∧ SameFlags flags s1 t ∧ SameStack s1 t ∧ SameControl s1 t ∧ NextSequential ins s t

/-- `src read.ns, dest rmw.nd` on integers. -/
def RmwClaim : Instr → Nat → Nat → Gen → Gen → List Flag → (Nat → Nat → Word → Nat → Word → Prop) → Prop :=
  RmwClaimIf (fun _ _ => True)

/-- `dest rmw.n` on integers, the other operand in the instruction. -/
def InPlaceClaim (ins : Instr) (n : Nat) (dst : Gen) (flags : List Flag) (rel : Nat → Nat → Word → Prop) : Prop :=
  ∀ (s : State) (d : Nat) (l : Loc),
    s.mem.wf = true → s.cut = .never → locate .int s s dst = .ok l → s.readLoc n l = .ok d →
    ∃ (t : State) (r : Nat), exec ins s = .next t ∧ t.readLoc n l = .ok r ∧ rel d r t.psr ∧
      OnlyAt l n s t ∧ SameFlags flags s t ∧ SameStack s t ∧ SameControl s t ∧ NextSequential ins s t

/-- `src read.n, dest rmw.2i` with n-byte halves, where `pre` holds of src and the halves of dest. -/
def PairClaimIf (pre : Nat → Nat → Nat → Prop) (ins : Instr) (n : Nat) (src dst : Gen)
    (rel : Nat → Nat → Nat → Nat → Nat → Prop) : Prop :=
  ∀ (s s1 : State) (a lo hi : Nat) (l : Loc),
    s.mem.wf = true → s.cut = .never → readOp .int n s s src = .ok (a, s1) → locate .int s s1 dst = .ok l →
    s1.readPair n l = .ok (lo, hi) → pre a lo hi →
    ∃ (t : State) (r q : Nat), exec ins s = .next t ∧ t.readPair n l = .ok (r, q) ∧ rel a lo hi r q ∧
      OnlyAtPair l n s1 t ∧ SameFlags [] s1 t ∧ SameStack s1 t ∧ SameControl s1 t ∧ NextSequential ins s t

/-- `src read.ns, dest write.nd`: `l` is where dest is and `s2` the state once Top of Stack has made room for it.
`rel a r w'` relates src with dest and PSR after. -/
def MoveClaim (ins : Instr) (ns nd : Nat) (src dst : Gen) (flags : List Flag) (rel : Nat → Nat → Word → Prop) : Prop :=
  ∀ (s s1 s2 : State) (a old : Nat) (l : Loc),
    s.mem.wf = true → s.cut = .never → readOp .int ns s s src = .ok (a, s1) →
    locateWrite .int nd s s1 dst = .ok (l, s2) → s2.readLoc nd l = .ok old →
    ∃ (t : State) (r : Nat), exec ins s = .next t ∧ t.readLoc nd l = .ok r ∧ rel a r t.psr ∧
      OnlyAt l nd s2 t ∧ SameFlags flags s2 t ∧ SameStack s2 t ∧ SameControl s2 t ∧ NextSequential ins s t

/-- `dest write.n` with a value computed from the state, where `pre` holds. -/
def StoreClaim (ins : Instr) (n : Nat) (dst : Gen) (pre : State → Prop) (rel : State → Nat → Prop) : Prop :=
  ∀ (s s2 : State) (old : Nat) (l : Loc),
    s.mem.wf = true → s.cut = .never → pre s → locateWrite .int n s s dst = .ok (l, s2) → s2.readLoc n l = .ok old →
    ∃ (t : State) (r : Nat), exec ins s = .next t ∧ t.readLoc n l = .ok r ∧ rel s r ∧
      OnlyAt l n s2 t ∧ SameFlags [] s2 t ∧ SameStack s2 t ∧ SameControl s2 t ∧ NextSequential ins s t

/-- `src1 read.n, src2 read.n`: only flags are delivered. -/
def CompareClaim (ins : Instr) (n : Nat) (src1 src2 : Gen) (rel : Nat → Nat → Word → Prop) : Prop :=
  ∀ (s s1 s2 : State) (a b : Nat),
    readOp .int n s s src1 = .ok (a, s1) → readOp .int n s s1 src2 = .ok (b, s2) →
    ∃ t : State, exec ins s = .next t ∧ rel a b t.psr ∧ SameFlags [.z, .n, .l] s2 t ∧ SameData s2 t ∧
      NextSequential ins s t

/-- A bit instruction that rewrites bit `b` of `c`: F takes the old bit, `new` gives the new one. `lock` gives the
interlock from what it was and from the base. -/
def BitClaim (ins : Instr) (n : Nat) (off base : Gen) (new : Bool → Bool) (lock : Bool → Loc → Bool) : Prop :=
  ∀ (s s1 : State) (o b m v : Nat) (l c : Loc),
    s.mem.wf = true → s.cut = .never → readOp .int n s s off = .ok (o, s1) → locate .int s s1 base = .ok l →
    BitIn l (signed (8 * n) o) c m b → s1.readLoc m c = .ok v →
    ∃ (t : State) (r : Nat), exec ins s = .next t ∧ t.readLoc m c = .ok r ∧ t.flag .f = v.testBit b ∧
      (∀ k, r.testBit k = if k = b then new (v.testBit b) else v.testBit k) ∧
      OnlyAt c m s1 t ∧ SameFlags [.f] s1 t ∧ SameStack s1 t ∧ SameBases s1 t ∧ SameSystem s1 t ∧ t.fsr = s.fsr ∧
      t.interlock = lock s.interlock l ∧ NextSequential ins s t

/-- Only PC may differ, and the flags `ks`. -/
def OnlyControl (ks : List Flag) (s t : State) : Prop := SameData s t ∧ SameFlags ks s t

/-- Of registers and memory only what a location holds differs, and FSR: SB, FP, INTBASE, MOD, the flags but `ks` and
the rest of the control state are unchanged. -/
def FpOnly (l : Loc) (n : Nat) (s t : State) : Prop :=
  OnlyAt l n s t ∧ SameFlags [] s t ∧ SameStack s t ∧ SameBases s t ∧ SameSystem s t ∧ t.interlock = s.interlock

/-- `src read.f, dest rmw.f` where both are numbers and `pre` holds of src, dest and FSR: `rel a b v r v'` relates
them with dest and FSR after. -/
def FpClaimIf (pre : Nat → Nat → Dword → Prop) (ins : Instr) (f : FpLen) (src dst : Gen)
    (rel : Nat → Nat → Dword → Nat → Dword → Prop) : Prop :=
  ∀ (s s1 : State) (a b : Nat) (l : Loc),
    s.mem.wf = true → s.cut = .never → s.cfgF = true → readOp .fp f.bytes s s src = .ok (a, s1) →
    locate .fp s s1 dst = .ok l → s1.readLoc f.bytes l = .ok b → pre a b s.fsr →
    ∃ (t : State) (r : Nat), exec ins s = .next t ∧ t.readLoc f.bytes l = .ok r ∧ rel a b s.fsr r t.fsr ∧
      FpOnly l f.bytes s1 t ∧ NextSequential ins s t

/-- The same operands where the operation traps: FSR is `v'` with `tt`, and Trap (FPU) is taken from the state the
instruction started in (R264). -/
def FpTrapClaim (pre : Nat → Nat → Dword → Prop) (ins : Instr) (f : FpLen) (src dst : Gen) (tt : Nat)
    (uf inexact : Bool) : Prop :=
  ∀ (s s1 : State) (a b : Nat) (l : Loc),
    s.cfgF = true → readOp .fp f.bytes s s src = .ok (a, s1) → locate .fp s s1 dst = .ok l →
    s1.readLoc f.bytes l = .ok b → pre a b s.fsr →
    ∃ v : Dword, FsrUpdated s.fsr v tt uf inexact ∧ exec ins s = finish (({ s with fsr := v } : State).trap .fpu)

/-- `src read.ns, dest write.nd` with results in FSR, where `pre` holds of src and FSR. -/
def FpMoveClaimIf (pre : Nat → Dword → Prop) (ins : Instr) (bs bd : Bank) (ns nd : Nat) (src dst : Gen)
    (rel : Nat → Dword → Nat → Dword → Prop) : Prop :=
  ∀ (s s1 s2 : State) (a old : Nat) (l : Loc),
    s.mem.wf = true → s.cut = .never → s.cfgF = true → readOp bs ns s s src = .ok (a, s1) →
    locateWrite bd nd s s1 dst = .ok (l, s2) → s2.readLoc nd l = .ok old → pre a s.fsr →
    ∃ (t : State) (r : Nat), exec ins s = .next t ∧ t.readLoc nd l = .ok r ∧ rel a s.fsr r t.fsr ∧
      FpOnly l nd s2 t ∧ NextSequential ins s t

/-- `src read.ns` where the operation traps whatever dest is: FSR is `v'` with `tt`, and Trap (FPU) is taken from the
state the instruction started in (R264). That a write dest is not evaluated first is the model's choice (log 14). -/
def FpMoveTrapClaim (pre : Nat → Dword → Prop) (ins : Instr) (bs : Bank) (ns : Nat) (src : Gen) (tt : Nat)
    (uf inexact : Bool) : Prop :=
  ∀ (s s1 : State) (a : Nat), s.cfgF = true → readOp bs ns s s src = .ok (a, s1) → pre a s.fsr →
    ∃ v : Dword, FsrUpdated s.fsr v tt uf inexact ∧ exec ins s = finish (({ s with fsr := v } : State).trap .fpu)

end Sys2Proof.Machine
end

