-- ==== Sys2Proof/Certificates/Slice0/Obligations.lean ====
section
/-! DEFINITION. The statements about the machine, each a proposition for the provers. Rules R<n> are those of spec/;
where a statement rests on a choice of the model its docstring names the log entry. -/

open Sys2Proof Sys2Proof.Machine

/-! ## Encoding -/

/-- Every well-formed instruction decodes from its own bytes, whatever follows them, and bytes decode to nothing else: a
reserved encoding is the encoding of no instruction, and is not read as one (R130 to R183, U6 to U12; words that ADDR
and LXPD share are LXPD's, log 20). -/
def Obligations.DecodeEncode : Prop :=
  (∀ (i : Instr) (rest : List Byte), i.wf = true → decode (encode i ++ rest) = .ok (i, rest)) ∧
  ∀ (bytes rest : List Byte) (i : Instr), decode bytes = .ok (i, rest) → i.wf = true ∧ bytes = encode i ++ rest

/-- Words of the spec's examples, one or more for each format, decode to the instructions they stand for; the word of
R441 to LXPD, where R441 lets the decoder say ADDR, which does the same (log 20). -/
def Obligations.DecodeWords : Prop :=
  decode [0x62, 0x85] = .ok (.save 0x85, []) ∧
    decode [0xAA, 0xBF, 0x66] = .ok (.blo (.d2 (-154)), []) ∧
    decode [0x6F, 0x04] = .ok (.lpri .d .fp (.mode (.reg 0)), []) ∧
    decode [0xCC, 0x07, 0x7D] = .ok (.acbi .b (-1) (.mode (.reg 0)) (.d1 (-3)), []) ∧
    decode [0x7C, 0xE7, 0xDF, 0x04] = .ok (.casei .b (.scaled .b (.program (.d1 4)) 7), []) ∧
    decode [0x04, 0xD2, 0x07, 0x04] = .ok (.cmpi .b (.mode (.static (.d1 7))) (.mode (.regRel 0 (.d1 4))), []) ∧
    decode [0xE7, 0xB5, 0x03, 0x00] = .ok (.lxpd (.d1 3) (.d1 0) (.mode .tos), []) ∧
    decode [0x0E, 0x84, 0x07] = .ok (.cmpst ⟨true, .until⟩, []) ∧
    decode [0x4E, 0x6F, 0xA0, 0x00, 0x00, 0x00, 0x99] = .ok (.subpi .d (.imm 0x99) (.mode (.reg 1)), []) ∧
    decode [0x2E, 0x00, 0xD7, 0xD1, 0x0A, 0x00, 0x05]
      = .ok (.exti .b 0 (.mode (.static (.d1 10))) (.scaled .b (.static (.d1 0)) 1) (.d1 5), []) ∧
    decode [0xAE, 0x8C, 0xCE, 0x05, 0x09]
      = .ok (.movsui .b (.mode (.stack (.d1 5))) (.mode (.static (.d1 9))), []) ∧
    decode [0xCE, 0xA3, 0x86, 0x7C, 0x04, 0x03]
      = .ok (.muli .d (.mode (.frameRel (.d1 (-4)) (.d1 4))) (.mode (.static (.d1 3))), []) ∧
    decode [0x1E, 0x8B, 0x05] = .ok (.lmr .bcnt (.mode (.reg 0)), []) ∧
    decode [0x3E, 0x96, 0x06, 0x0C] = .ok (.movlf (.mode (.reg 0)) (.mode (.static (.d1 12))), []) ∧
    decode [0xBE, 0xA0, 0xC6, 0x78, 0x10]
      = .ok (.divf .double (.mode (.frame (.d1 (-8)))) (.mode (.static (.d1 16))), [])

/-- No instruction is shorter than one byte or longer than 25 (R131). -/
def Obligations.LengthBounds : Prop := ∀ i : Instr, 1 ≤ instrLength i ∧ instrLength i ≤ 25

/-! ## Steps -/

/-- Where Reset before the step and an abort of the fetch are not asked for and the machine is not waiting, the step at
bytes that decode runs that instruction: NMI is latched, what cuts the step short later noted, T copied into P and the
interlock released before it, and the acceptance point comes after it (R15, R505, R515; logs 8 to 10, 13, 27). -/
def Obligations.StepRunsDecoded : Prop :=
  ∀ (s : State) (i : Instr) (b : Byte) (r rest : List Byte),
    s.input.cut.reset ≠ some 0 → s.waiting = false → s.input.cut.abort ≠ some .fetch →
    s.fetchBytes = b :: r → slaveDisabled s b = false → decode (b :: r) = .ok (i, rest) →
    step s = match exec i s.latchNmi.arm.begin with
      | .next t => finish (t.complete (unfinishedString i s.latchNmi.arm.begin t))
      | .fault e => .fault e
      | .refused e => .refused e

/-- The same of an instruction whose bytes stand in memory at PC, clear of the device addresses, where its slave is
enabled: CFG.F for first bytes 3E and BE, CFG.M for 1E, CFG.C for 16, 36 and B6 (R183, R543). -/
def Obligations.StepRunsStored : Prop :=
  ∀ (s : State) (i : Instr), i.wf = true →
    s.input.cut.reset ≠ some 0 → s.waiting = false → s.input.cut.abort ≠ some .fetch →
    s.pc.toNat + instrLength i ≤ 16777216 →
    (∀ k < instrLength i, some (s.mem.read (s.pc.toNat + k)) = (encode i)[k]? ∧
      s.pc.toNat + k ≠ 0xFFFE00 ∧ s.pc.toNat + k ≠ 0xFFFF00) →
    ((encode i).head? = some 0x3E ∨ (encode i).head? = some 0xBE → s.cfg.getLsbD 1 = true) →
    ((encode i).head? = some 0x1E → s.cfg.getLsbD 2 = true) →
    ((encode i).head? = some 0x16 ∨ (encode i).head? = some 0x36 ∨ (encode i).head? = some 0xB6 →
      s.cfg.getLsbD 3 = true) →
    step s = match exec i s.latchNmi.arm.begin with
      | .next t => finish (t.complete (unfinishedString i s.latchNmi.arm.begin t))
      | .fault e => .fault e
      | .refused e => .refused e

/-- Every step keeps memory canonical and the reserved bits of PSR (R41) and FSR (R56) zero (logs 2, 5). -/
def Obligations.InvKept : Prop := ∀ s t : State, Inv s → step s = .next t → Inv t

/-- The invariant holds after Reset. -/
def Obligations.InvReset : Prop := Inv State.reset

/-- At a first byte whose slave is not enabled, at one to which no instruction is assigned, and at an unassigned op field
of an assigned format (R170 to R179), a step takes Trap (UND), whatever follows (R182, R543, D7, log 7), in User Mode
too (UND before ILL: D14, log 14). -/
def Obligations.UndefinedTraps : Prop :=
  ∀ (s : State) (b : Byte) (r : List Byte),
    s.input.cut.reset ≠ some 0 → s.waiting = false → s.input.cut.abort ≠ some .fetch → s.fetchBytes = b :: r →
    ((b = 0x3E ∨ b = 0xBE) ∧ s.cfg.getLsbD 1 = false) ∨ (b = 0x1E ∧ s.cfg.getLsbD 2 = false) ∨
      ((b = 0x16 ∨ b = 0x36 ∨ b = 0xB6) ∧ s.cfg.getLsbD 3 = false) ∨
      b ∈ ([0x06, 0x26, 0x46, 0x56, 0x66, 0x76, 0x86, 0x96, 0xA6, 0xC6, 0xD6, 0xE6, 0xF6, 0x5E, 0x7E, 0x8E, 0x9E,
        0xDE, 0xFE] : List Byte) ∨
      (b ∈ ([0x7C, 0x7D, 0x7F, 0xFC, 0xFD, 0xFF] : List Byte) ∧ ∃ (b1 : Byte) (r' : List Byte), r = b1 :: r' ∧
        (b.toNat + 256 * b1.toNat) / 128 % 16 ∈ [1, 3, 5, 7, 8, 9, 11, 13, 15]) ∨
      (∃ (b1 b2 : Byte) (r' : List Byte) (op reg : Nat), r = b1 :: b2 :: r' ∧ op = b1.toNat / 4 % 16 ∧
        reg = b1.toNat / 8 % 8 ∧
        ((b = 0x0E ∧ 4 ≤ op) ∨ (b = 0x1E ∧ 4 ≤ op) ∨ (b = 0x4E ∧ (op = 4 ∨ op = 10)) ∨ (b = 0xCE ∧ op = 10) ∨
          (b = 0xBE ∧ op ∈ [6, 7, 10, 11, 14, 15]) ∨ (b = 0xEE ∧ op % 2 = 1) ∨
          (b = 0xAE ∧ op % 2 = 1 ∧ reg ≠ 1 ∧ reg ≠ 3))) →
    step s = finish ((s.latchNmi.arm.begin.trap .und).bind (fun t => t.complete false))

/-- While waiting, a step without an accepted interrupt changes nothing but the spent input and the interlock, and an
accepted one ends the waiting (R458). `cut` is the model's own, nothing between steps (logs 10, 27). -/
def Obligations.Waiting : Prop :=
  ∀ s : State, s.input.cut.reset = none → s.waiting = true →
    (s.nmiPending = false → s.input.nmiEdge = false → (s.input.int = false ∨ s.flag .i = false) →
      step s = .next { s with interlock := false, env := s.env.tail, cut := .never }) ∧
    (∀ t, (s.nmiPending = true ∨ s.input.nmiEdge = true ∨ (s.input.int = true ∧ s.flag .i = true)) →
      step s = .next t → t.waiting = false ∧ t.flag .u = false ∧ t.flag .s = false ∧ t.flag .i = false)

/-- Reset ends whatever the machine is doing: PC, PSR and FSR are zero, it waits for nothing, and memory is kept with the
writes made before it (R501, R560; the other registers are log 27's). It may arrive before a step; in the middle of an
instruction, such as SAVE between two of its pushes, the registers pushed so far being in memory; and at the end of a
step, where so much of the frame of an interrupt or of the Trace trap is in memory as its writes came before the Reset,
and else memory is as it was. -/
def Obligations.ResetEvent : Prop :=
  (∀ s : State, s.input.cut.reset = some 0 → ∃ t, step s = .next t ∧ AfterReset t ∧ SameMemory s t) ∧
  (∀ (l : Byte) (s : State) (k : Nat), s.mem.wf = true → s.cut = { abort := none, reset := some k } →
    k < listedBelow l 8 → 4 * listedBelow l 8 ≤ s.sp.toNat →
    checkAccess (s.sp.toNat - 4 * listedBelow l 8) (4 * listedBelow l 8) = .ok () →
    ∃ t, exec (.save l) s = .next t ∧ AfterReset t ∧ PartlySaved l k s t.mem) ∧
  ∀ (s t : State) (u : Bool) (k : Nat), s.mem.wf = true → s.cut.reset = some k → s.complete u = .ok t →
    AfterReset t ∧ t.env = s.env.tail ∧
    if s.nmiPending = true ∨ (s.input.int = true ∧ s.flag .i = true) then
      ∀ w : Word, Cleared (if u then [.p] else []) s.psr w → w &&& 0xF018 = s.psr &&& 0xF018 →
        PartlyFramed s w k t.mem
    else if s.flag .p = true ∧ s.waiting = false ∧ u = false then
      ∀ w : Word, Cleared [.p] s.psr w → w &&& 0xF018 = s.psr &&& 0xF018 → PartlyFramed s w k t.mem
    else SameMemory s t

/-- The acceptance point takes NMI first, then INT with I set, then a pending Trace trap, and no Trace trap inside a
String instruction or while waiting (R505, R512, R515; log 28). -/
def Obligations.BoundaryOrder : Prop :=
  ∀ (s : State) (u : Bool),
    (s.nmiPending = true → s.boundary u = s.interrupt true u) ∧
    (s.nmiPending = false → s.input.int = true → s.flag .i = true → s.boundary u = s.interrupt false u) ∧
    (s.nmiPending = false → (s.input.int = false ∨ s.flag .i = false) → s.flag .p = true → s.waiting = false →
      u = false → s.boundary u = s.traceTrap) ∧
    (s.nmiPending = false → (s.input.int = false ∨ s.flag .i = false) →
      (s.flag .p = false ∨ s.waiting = true ∨ u = true) → s.boundary u = .ok s)

/-! ## Exceptions -/

/-- A trap saves PSR as it is, MOD and the address of the trapped instruction on SP0, clears S, U, P and T, and enters
the procedure of its vector (R504, R519, R521). -/
def Obligations.TrapEntry : Prop :=
  ∀ (s : State) (k : TrapKind) (n : Nat),
    (k, n) ∈ [(TrapKind.fpu, 3), (.ill, 4), (.svc, 5), (.dvz, 6), (.flg, 7), (.bpt, 8), (.und, 10)] →
    s.mem.wf = true → ExceptionReady s s.psr n s.pc.toNat →
    ∃ t, s.trap k = .ok t ∧ ExceptionTaken s s.psr n s.pc.toNat t ∧ Cleared [.s, .u, .p, .t] s.psr t.psr ∧
      t.waiting = s.waiting ∧ t.nmiPending = s.nmiPending

/-- The Trace trap and the Abort trap save PSR with P clear and clear S, U and T, the Abort trap also I; vectors 9 and
2 (R522, R524). A step whose fetch the MMU aborts is the Abort trap. An instruction whose memory reference the MMU
aborts takes it with its stack pointer as it was at its start: MOVi at the read of its source and at the write of its
destination, SAVE at any of its pushes, with the registers pushed before it in memory (R105, R524; that they stay there
is log 34's choice, which reference is aborted is the environment's, log 10, and that MOVi's abort comes before the
fault of an address outside memory is log 37's). A push of a trap's own entry that is aborted stops (R526; log 35). -/
def Obligations.TraceAbortEntry : Prop :=
  (∀ (s : State) (w : Word), s.mem.wf = true → Cleared [.p] s.psr w → w &&& 0xF018 = s.psr &&& 0xF018 →
    (ExceptionReady s w 9 s.pc.toNat → ∃ t, s.traceTrap = .ok t ∧ ExceptionTaken s w 9 s.pc.toNat t ∧
      Cleared [.p, .s, .u, .t] s.psr t.psr ∧ t.waiting = s.waiting ∧ t.nmiPending = s.nmiPending) ∧
    (ExceptionReady s w 2 s.pc.toNat → ∃ t, s.abort = .ok t ∧ ExceptionTaken s w 2 s.pc.toNat t ∧
      Cleared [.p, .s, .u, .t, .i] s.psr t.psr ∧ t.waiting = s.waiting ∧ t.nmiPending = s.nmiPending)) ∧
  (∀ s : State, s.input.cut.reset ≠ some 0 → s.waiting = false → s.input.cut.abort = some .fetch →
    step s = finish (({ s.latchNmi.arm.begin with
      cut := { abort := none, reset := s.input.cut.reset } } : State).abort.bind (fun t => t.complete false))) ∧
  (∀ (s : State) (i : IntLen) (src dst : Gen) (a : Dword) (x : Nat),
    s.cut = { abort := some (.read 0 x), reset := none } →
    src ≠ .mode .tos → locate .int s s src = .ok (.mem a) → a.toNat ≤ x → x < a.toNat + i.bytes →
    exec (.movi i src dst) s = finish ({ s with cut := .never } : State).abort) ∧
  (∀ (s s1 s2 : State) (i : IntLen) (src dst : Gen) (v : Nat) (a : Dword),
    s.cut = { abort := some (.write 0), reset := none } →
    readOp .int i.bytes s s src = .ok (v, s1) → locateWrite .int i.bytes s s1 dst = .ok (.mem a, s2) →
    exec (.movi i src dst) s = finish ({ s with cut := .never, freeCount := s2.freeCount } : State).abort) ∧
  (∀ (l : Byte) (s : State) (k : Nat), s.mem.wf = true →
    s.cut = { abort := some (.write k), reset := none } → k < listedBelow l 8 → 4 * listedBelow l 8 ≤ s.sp.toNat →
    checkAccess (s.sp.toNat - 4 * listedBelow l 8) (4 * listedBelow l 8) = .ok () →
    ∃ m : Memory, exec (.save l) s = finish ({ s with mem := m, cut := .never } : State).abort ∧ PartlySaved l k s m) ∧
  ∀ (s : State) (e : TrapKind) (k : Nat), s.cut = { abort := some (.write k), reset := none } → k < 3 →
    8 ≤ s.sp0.toNat → checkAccess (s.sp0.toNat - 8) 8 = .ok () → finish (s.trap e) = .fault .entryAborted

/-- An interrupt saves PSR, with P clear only inside a String instruction, clears S, U, T, P and I and ends waiting.
The vector is 1 for NMI, 0 without an Interrupt Control Unit, and else the acknowledge byte where that is not
negative, or the cascaded unit's (R506, R508, R510, R520; log 25). -/
def Obligations.InterruptEntry : Prop :=
  ∀ (s : State) (w : Word) (u nmi : Bool) (n : Nat), s.mem.wf = true →
    Cleared (if u then [.p] else []) s.psr w → w &&& 0xF018 = s.psr &&& 0xF018 →
    ((nmi = true ∧ n = 1) ∨ (nmi = false ∧ s.cfg.getLsbD 0 = false ∧ n = 0) ∨
      (nmi = false ∧ s.cfg.getLsbD 0 = true ∧ s.input.ackByte.toNat < 128 ∧ n = s.input.ackByte.toNat) ∨
      (nmi = false ∧ s.cfg.getLsbD 0 = true ∧ 128 ≤ s.input.ackByte.toNat ∧
        (∃ b, s.input.cascadeByte = some b ∧ n = b.toNat) ∧
        ∃ a, ({ s with mem := s.mem.writeLE (s.sp0.toNat - 2) 2 w.toNat } : State).cascadeAddress s.input.ackByte
          = .ok a)) →
    ExceptionReady s w n s.pc.toNat →
    ∃ t, s.interrupt nmi u = .ok t ∧ ExceptionTaken s w n s.pc.toNat t ∧
      Cleared [.s, .u, .t, .p, .i] s.psr t.psr ∧ t.waiting = false ∧
      t.nmiPending = (s.nmiPending && !nmi)

/-- No instruction changes the protected registers in User Mode unless it traps or is aborted, where Reset does not
arrive in it (R69, R524, R541; what an aborted instruction leaves, log 34). -/
def Obligations.UserModeProtected : Prop :=
  ∀ (i : Instr) (s t : State), s.cut.reset = none → s.flag .u = true → exec i s = .next t →
    t.intbase = s.intbase ∧ t.cfg = s.cfg ∧ t.mmu = s.mmu ∧
      (SamePrivileged s t ∨ (∃ (k : TrapKind) (v : Dword), ({ s with fsr := v } : State).trap k = .ok t) ∨
        ∃ c : State, (s.aborted c).abort = .ok t)

/-- The privileged instructions take Trap (ILL) in User Mode (R541). -/
def Obligations.PrivilegedTraps : Prop :=
  ∀ (s : State) (i : IntLen) (d : Disp) (c : BitVec 4) (m : MmuReg) (a b : Gen), s.flag .u = true →
    exec (.rett d) s = finish (s.trap .ill) ∧ exec .reti s = finish (s.trap .ill) ∧
    exec (.setcfg c) s = finish (s.trap .ill) ∧ exec (.movsui i a b) s = finish (s.trap .ill) ∧
    exec (.movusi i a b) s = finish (s.trap .ill) ∧ exec (.lpri i .psr a) s = finish (s.trap .ill) ∧
    exec (.lpri i .intbase a) s = finish (s.trap .ill) ∧ exec (.spri i .psr a) s = finish (s.trap .ill) ∧
    exec (.spri i .intbase a) s = finish (s.trap .ill) ∧ exec (.bicpsri .w a) s = finish (s.trap .ill) ∧
    exec (.bispsri .w a) s = finish (s.trap .ill) ∧
    (s.cfgM = true → exec (.lmr m a) s = finish (s.trap .ill) ∧ exec (.smr m a) s = finish (s.trap .ill) ∧
      exec (.rdval a) s = finish (s.trap .ill) ∧ exec (.wrval a) s = finish (s.trap .ill))

/-! ## Registers, memory and operands -/

/-- An operand shorter than a register is its low-order portion, and writing it leaves the rest of the register and
every other register alone (R21). A floating-point value of four bytes is a register F0 to F7; one of eight is an even
register, which holds its low half, and the next one (R145, R251, R253). A 2i operand is an even register, which holds
its low half, and the next one, or has its low half at the lower address (R145, R166). -/
def Obligations.SubRegister : Prop :=
  (∀ (s : State) (k : Fin 8) (n v : Nat), n ∈ [1, 2, 4] →
    s.readLoc n (.gpr k) = .ok (s.r[k].toNat % 256 ^ n) ∧
    ∃ t, s.writeLoc n v (.gpr k) = .ok t ∧ t.r[k].toNat % 256 ^ n = v % 256 ^ n ∧
      t.r[k].toNat / 256 ^ n = s.r[k].toNat / 256 ^ n ∧ ∀ j : Fin 8, j ≠ k → t.r[j] = s.r[j]) ∧
  (∀ (s : State) (k : Fin 8) (v : Nat), s.readLoc 4 (.fpr k) = .ok s.f[k].toNat ∧
    ∃ t, s.writeLoc 4 v (.fpr k) = .ok t ∧ t.f[k].toNat = v % 2 ^ 32 ∧ OnlyAt (.fpr k) 4 s t) ∧
  ∀ (s : State) (k j : Fin 8) (v n lo hi : Nat) (a : Dword), k.val % 2 = 0 → j.val = k.val + 1 →
    (s.readLoc 8 (.fpr k) = .ok (s.f[k].toNat + 2 ^ 32 * s.f[j].toNat) ∧
      ∃ t, s.writeLoc 8 v (.fpr k) = .ok t ∧ t.f[k].toNat = v % 2 ^ 32 ∧ t.f[j].toNat = v / 2 ^ 32 % 2 ^ 32 ∧
        OnlyAt (.fpr k) 8 s t) ∧
    (n ∈ [1, 2, 4] →
      s.readPair n (.gpr k) = .ok (s.r[k].toNat % 256 ^ n, s.r[j].toNat % 256 ^ n) ∧
      s.readLow n (.gpr k) = .ok (s.r[k].toNat % 256 ^ n) ∧
      (∃ t, s.writePair n lo hi (.gpr k) = .ok t ∧ t.r[k].toNat % 256 ^ n = lo % 256 ^ n ∧
        t.r[j].toNat % 256 ^ n = hi % 256 ^ n ∧ OnlyAtPair (.gpr k) n s t) ∧
      (s.mem.wf = true → s.cut = .never → checkAccess a.toNat (2 * n) = .ok () →
        s.readPair n (.mem a) = .ok (s.mem.readLE a.toNat n, s.mem.readLE (a.toNat + n) n) ∧
        s.readLow n (.mem a) = .ok (s.mem.readLE a.toNat n) ∧
        ∃ t, s.writePair n lo hi (.mem a) = .ok t ∧ t.mem.readLE a.toNat n = lo % 256 ^ n ∧
          t.mem.readLE (a.toNat + n) n = hi % 256 ^ n ∧ OnlyAtPair (.mem a) n s t))

/-- Data of 1, 2, 4 and 8 bytes are stored least-significant byte at the lowest address, for reads and for writes
(R82). -/
def Obligations.ByteOrder : Prop :=
  ∀ (s : State) (a : Dword) (n v : Nat), s.mem.wf = true → s.cut = .never → n ∈ [1, 2, 4, 8] →
    checkAccess a.toNat n = .ok () →
    s.memRead a n = .ok (∑ k ∈ Finset.range n, 256 ^ k * (s.mem.read (a.toNat + k)).toNat) ∧
    ∃ t, s.memWrite a n v = .ok t ∧ SameOutside a.toNat n s t ∧
      ∀ k < n, (t.mem.read (a.toNat + k)).toNat = v / 2 ^ (8 * k) % 256

/-- The effective address of each addressing mode: registers and displacements, pointers read from memory, the Link
Table, and Scaled Indexing over another mode (R143 to R153). `s0` is the state the instruction started in, `s` the state
now: Stack Memory and Stack Memory Relative take the stack pointer of the start, Program Memory the PC of the start, and
Top of Stack the stack pointer of now. -/
def Obligations.EffectiveAddresses : Prop :=
  ∀ (s0 s : State) (k x : Fin 8) (d e : Disp) (m : Mode) (a p q : Nat),
    (addrOf s0 s (.mode (.reg k)) = .ok s.r[k]) ∧
    (addrOf s0 s (.mode (.regRel k d)) = .ok (s.r[k] + BitVec.ofInt 32 d.value)) ∧
    (addrOf s0 s (.mode (.frame d)) = .ok (s.fp.setWidth 32 + BitVec.ofInt 32 d.value)) ∧
    (addrOf s0 s (.mode (.static d)) = .ok (s.sb.setWidth 32 + BitVec.ofInt 32 d.value)) ∧
    (addrOf s0 s (.mode (.program d)) = .ok (s0.pc.setWidth 32 + BitVec.ofInt 32 d.value)) ∧
    (addrOf s0 s (.mode (.stack d)) =
      .ok ((if s0.flag .s then s0.sp1 else s0.sp0).setWidth 32 + BitVec.ofInt 32 d.value)) ∧
    (addrOf s0 s (.mode .tos) = .ok ((if s.flag .s then s.sp1 else s.sp0).setWidth 32)) ∧
    (0 ≤ d.value → addrOf s0 s (.mode (.absolute d)) = .ok (BitVec.ofInt 32 d.value)) ∧
    (s.memRead (s.fp.setWidth 32 + BitVec.ofInt 32 d.value) 4 = .ok p →
      addrOf s0 s (.mode (.frameRel d e)) = .ok (BitVec.ofInt 32 (p + e.value))) ∧
    (s.memRead (s.sb.setWidth 32 + BitVec.ofInt 32 d.value) 4 = .ok p →
      addrOf s0 s (.mode (.staticRel d e)) = .ok (BitVec.ofInt 32 (p + e.value))) ∧
    (s.memRead ((if s0.flag .s then s0.sp1 else s0.sp0).setWidth 32 + BitVec.ofInt 32 d.value) 4 = .ok p →
      addrOf s0 s (.mode (.stackRel d e)) = .ok (BitVec.ofInt 32 (p + e.value))) ∧
    (s.mod.toNat < 0xFFF1 → s.memRead (BitVec.ofNat 32 (s.mod.toNat + 4)) 4 = .ok p →
      s.memRead (BitVec.ofInt 32 (p + 4 * d.value)) 4 = .ok q →
      addrOf s0 s (.mode (.ext d e)) = .ok (BitVec.ofInt 32 (q + e.value))) ∧
    (addrOf s0 s (.mode m) = .ok (BitVec.ofNat 32 a) → ∀ sc n, (sc, n) ∈ [(Scale.b, 1), (.w, 2), (.d, 4), (.q, 8)] →
      addrOf s0 s (.scaled sc m x) = .ok (BitVec.ofNat 32 (a + n * s.r[x].toNat)))

/-- What an operand of each access class is (R144, R145, R148, R151, R160 to R162, R164, R251): Register mode names a
register of the integer or the floating-point file, Immediate mode is the value, and every other mode is memory at the
effective address. A read operand in Top of Stack is popped and a write operand there is pushed (R88, R151); no other
mode moves the stack pointer, and none changes a register or memory. -/
def Obligations.StackOperands : Prop :=
  ∀ (b : Bank) (n : Nat) (s0 s t : State) (g : Gen) (v : Nat) (l : Loc), 1 ≤ n →
    (readOp b n s0 s g = .ok (v, t) →
      (if g = .mode .tos then s.memRead (s.sp.setWidth 32) n = .ok v ∧ StackMoved n s t else t = s) ∧
      SameRegs [] s t ∧ SameFpRegs [] s t ∧ SameMemory s t ∧ SameFlags [] s t ∧ t.pc = s.pc ∧ SameControl s t) ∧
    (locateWrite b n s0 s g = .ok (l, t) →
      (if g = .mode .tos then l = .mem (t.sp.setWidth 32) ∧ n ≤ s.sp.toNat ∧ StackMoved (-n) s t else t = s) ∧
      SameRegs [] s t ∧ SameFpRegs [] s t ∧ SameMemory s t ∧ SameFlags [] s t ∧ t.pc = s.pc ∧ SameControl s t) ∧
    (s.memRead (s.sp.setWidth 32) n = .ok v → ∃ u, readOp b n s0 s (.mode .tos) = .ok (v, u)) ∧
    (n ≤ s.sp.toNat → ∃ l' u, locateWrite b n s0 s (.mode .tos) = .ok (l', u)) ∧
    (∀ k : Fin 8, locate .int s0 s (.mode (.reg k)) = .ok (.gpr k) ∧ locate .fp s0 s (.mode (.reg k)) = .ok (.fpr k)) ∧
    (∀ a : Dword, (∀ k : Fin 8, g ≠ .mode (.reg k)) → addrOf s0 s g = .ok a → locate b s0 s g = .ok (.mem a)) ∧
    (∀ a : Dword, s.readLoc n (.mem a) = s.memRead a n ∧ s.writeLoc n v (.mem a) = s.memWrite a n v) ∧
    (∀ x : Quad, readOp b n s0 s (.imm x) = .ok (x.toNat % 256 ^ n, s)) ∧
    (g ≠ .mode .tos → locate b s0 s g = .ok l →
      (s.readLoc n l = .ok v → readOp b n s0 s g = .ok (v, s)) ∧ locateWrite b n s0 s g = .ok (l, s)) ∧
    (locateWrite b n s0 s g = .ok (l, t) → writeOp b n v s0 s g = t.writeLoc n v l)

/-! ## Integer -/

/-- ADDi, ADDQi, ADDCi, SUBi, SUBCi and NEGi: the sum or difference modulo 2^N, C the carry or borrow, F the signed
overflow (R200, R210 to R215). -/
def Obligations.AddSubtract : Prop :=
  ∀ (i : IntLen) (q : BitVec 4) (src dst : Gen),
    RmwClaim (.addi i src dst) i.bytes i.bytes src dst [.c, .f] (fun a d _ r w => Added i.bits a d 0 r w) ∧
    InPlaceClaim (.addqi i q dst) i.bytes dst [.c, .f] (fun d r w => Added i.bits (wrapped i.bits q.toInt) d 0 r w) ∧
    RmwClaim (.addci i src dst) i.bytes i.bytes src dst [.c, .f]
      (fun a d w r w' => Added i.bits a d (flag w .c).toNat r w') ∧
    RmwClaim (.subi i src dst) i.bytes i.bytes src dst [.c, .f] (fun a d _ r w => Subtracted i.bits a d 0 r w) ∧
    RmwClaim (.subci i src dst) i.bytes i.bytes src dst [.c, .f]
      (fun a d w r w' => Subtracted i.bits a d (flag w .c).toNat r w') ∧
    MoveClaim (.negi i src dst) i.bytes i.bytes src dst [.c, .f] (fun a r w => Subtracted i.bits a 0 0 r w)

/-- ABSi gives the magnitude, F where it does not fit; MULi the product modulo 2^N (R216, R217). -/
def Obligations.AbsoluteMultiply : Prop :=
  ∀ (i : IntLen) (src dst : Gen),
    MoveClaim (.absi i src dst) i.bytes i.bytes src dst [.f] (fun a r w =>
      r = wrapped i.bits |signed i.bits a| ∧ (flag w .f = true ↔ signed i.bits a = -2 ^ (i.bits - 1))) ∧
    RmwClaim (.muli i src dst) i.bytes i.bytes src dst [] (fun a d _ r _ =>
      r = wrapped i.bits (signed i.bits d * signed i.bits a))

/-- MEIi gives the whole unsigned product; DEIi the remainder low and the quotient high where the quotient fits, and
completes where it does not (R218, R223; U17, log 6). -/
def Obligations.ExtendedIntegers : Prop :=
  ∀ (i : IntLen) (src dst : Gen),
    PairClaimIf (fun _ _ _ => True) (.meii i src dst) i.bytes src dst (fun a lo _ r q => r + 2 ^ i.bits * q = a * lo) ∧
    PairClaimIf (fun a lo hi => a ≠ 0 ∧ (lo + 2 ^ i.bits * hi) / a < 2 ^ i.bits) (.deii i src dst) i.bytes src dst
      (fun a lo hi r q => q * a + r = lo + 2 ^ i.bits * hi ∧ r < a) ∧
    PairClaimIf (fun a lo hi => a ≠ 0 ∧ 2 ^ i.bits ≤ (lo + 2 ^ i.bits * hi) / a) (.deii i src dst) i.bytes src dst
      (fun _ _ _ _ _ => True)

/-- DIVi and MODi round the exact quotient down, QUOi and REMi toward zero; operands are signed. A zero divisor takes
Trap (DVZ) from the state the instruction started in, so a pop of the divisor is undone (R203, R219 to R223, R521; the
most negative value by -1 wraps, U18, log 18). Trap (DVZ) comes after the operand accesses: where dest cannot be located
or read, that stop or abort is the outcome, whatever the divisor (R512, D8). -/
def Obligations.Division : Prop :=
  ∀ (i : IntLen) (src dst : Gen),
    RmwClaimIf (fun a _ => a ≠ 0) (.divi i src dst) i.bytes i.bytes src dst [] (fun a d _ r _ =>
      r = wrapped i.bits ⌊(signed i.bits d : ℚ) / signed i.bits a⌋) ∧
    RmwClaimIf (fun a _ => a ≠ 0) (.modi i src dst) i.bytes i.bytes src dst [] (fun a d _ r _ =>
      r = wrapped i.bits (signed i.bits d - signed i.bits a * ⌊(signed i.bits d : ℚ) / signed i.bits a⌋)) ∧
    RmwClaimIf (fun a _ => a ≠ 0) (.quoi i src dst) i.bytes i.bytes src dst [] (fun a d _ r _ =>
      r = wrapped i.bits (truncated ((signed i.bits d : ℚ) / signed i.bits a))) ∧
    RmwClaimIf (fun a _ => a ≠ 0) (.remi i src dst) i.bytes i.bytes src dst [] (fun a d _ r _ =>
      r = wrapped i.bits (signed i.bits d - signed i.bits a * truncated ((signed i.bits d : ℚ) / signed i.bits a))) ∧
    ∀ (s s1 : State) (a : Nat), readOp .int i.bytes s s src = .ok (a, s1) →
      (∀ (l : Loc) (d : Nat), a = 0 → locate .int s s1 dst = .ok l → s1.readLoc i.bytes l = .ok d →
        ∀ ins ∈ [Instr.divi i src dst, .modi i src dst, .quoi i src dst, .remi i src dst],
          exec ins s = finish (s.trap .dvz)) ∧
      (∀ (l : Loc) (d : Nat × Nat), a = 0 → locate .int s s1 dst = .ok l → s1.readPair i.bytes l = .ok d →
        exec (.deii i src dst) s = finish (s.trap .dvz)) ∧
      (∀ e : Stop, locate .int s s1 dst = .error e →
        ∀ ins ∈ [Instr.divi i src dst, .modi i src dst, .quoi i src dst, .remi i src dst, .deii i src dst],
          exec ins s = s.run (.error e)) ∧
      ∀ (l : Loc) (e : Stop), locate .int s s1 dst = .ok l →
        (s1.readLoc i.bytes l = .error e →
          ∀ ins ∈ [Instr.divi i src dst, .modi i src dst, .quoi i src dst, .remi i src dst],
            exec ins s = s.run (.error e)) ∧
        (s1.readPair i.bytes l = .error e → exec (.deii i src dst) s = s.run (.error e))

/-- MOVi and MOVQi copy, MOVXii sign-extends and MOVZii zero-extends, and no flag changes (R224 to R231). -/
def Obligations.Moves : Prop :=
  ∀ (i : IntLen) (q : BitVec 4) (src dst : Gen),
    MoveClaim (.movi i src dst) i.bytes i.bytes src dst [] (fun a r _ => r = a) ∧
    StoreClaim (.movqi i q dst) i.bytes dst (fun _ => True) (fun _ r => r = wrapped i.bits q.toInt) ∧
    MoveClaim (.movxbw src dst) 1 2 src dst [] (fun a r _ => r = wrapped 16 (signed 8 a)) ∧
    MoveClaim (.movzbw src dst) 1 2 src dst [] (fun a r _ => r = a) ∧
    (i ≠ .d → MoveClaim (.movxid i src dst) i.bytes 4 src dst [] (fun a r _ => r = wrapped 32 (signed i.bits a))) ∧
    (i ≠ .d → MoveClaim (.movzid i src dst) i.bytes 4 src dst [] (fun a r _ => r = a))

/-- CMPi and CMPQi: Z for equality, N for src1 greater as signed and L for src1 greater as unsigned numbers, and
nothing else (R229, R230). -/
def Obligations.Comparisons : Prop :=
  ∀ (i : IntLen) (q : BitVec 4) (src1 src2 : Gen),
    CompareClaim (.cmpi i src1 src2) i.bytes src1 src2 (Compared i.bits) ∧
    ∀ (s s1 : State) (b : Nat), readOp .int i.bytes s s src2 = .ok (b, s1) →
      ∃ t, exec (.cmpqi i q src2) s = .next t ∧ Compared i.bits (wrapped i.bits q.toInt) b t.psr ∧
        SameFlags [.z, .n, .l] s1 t ∧ SameData s1 t ∧ NextSequential (.cmpqi i q src2) s t

/-! ## Packed decimal -/

/-- ADDPi and SUBPi: the decimal sum or difference with C, modulo 10^D, C the decimal carry or borrow, F clear; where a
digit is not legal they complete with F clear (R240 to R243; U13, log 6). -/
def Obligations.PackedDecimal : Prop :=
  ∀ (i : IntLen) (src dst : Gen),
    RmwClaimIf (fun a d => Decimal i.bytes a ∧ Decimal i.bytes d) (.addpi i src dst) i.bytes i.bytes src dst [.c, .f]
      (fun a d w r w' => Decimal i.bytes r ∧
        decimalValue i.bytes r
          = (decimalValue i.bytes d + decimalValue i.bytes a + (flag w .c).toNat) % 10 ^ (2 * i.bytes) ∧
        (flag w' .c = true ↔
          10 ^ (2 * i.bytes) ≤ decimalValue i.bytes d + decimalValue i.bytes a + (flag w .c).toNat) ∧
        flag w' .f = false) ∧
    RmwClaimIf (fun a d => Decimal i.bytes a ∧ Decimal i.bytes d) (.subpi i src dst) i.bytes i.bytes src dst [.c, .f]
      (fun a d w r w' => Decimal i.bytes r ∧
        (decimalValue i.bytes r : Int)
          = ((decimalValue i.bytes d : Int) - decimalValue i.bytes a - (flag w .c).toNat) % 10 ^ (2 * i.bytes) ∧
        (flag w' .c = true ↔ decimalValue i.bytes d < decimalValue i.bytes a + (flag w .c).toNat) ∧
        flag w' .f = false) ∧
    RmwClaimIf (fun a d => ¬ (Decimal i.bytes a ∧ Decimal i.bytes d)) (.addpi i src dst) i.bytes i.bytes src dst
      [.c, .f] (fun _ _ _ _ w' => flag w' .f = false) ∧
    RmwClaimIf (fun a d => ¬ (Decimal i.bytes a ∧ Decimal i.bytes d)) (.subpi i src dst) i.bytes i.bytes src dst
      [.c, .f] (fun _ _ _ _ w' => flag w' .f = false)

/-! ## Logical and shift -/

/-- ANDi, ORi, BICi, XORi, COMi and NOTi bit by bit, and no flag (R302 to R307). -/
def Obligations.Bitwise : Prop :=
  ∀ (i : IntLen) (src dst : Gen),
    RmwClaim (.andi i src dst) i.bytes i.bytes src dst [] (fun a d _ r _ =>
      ∀ k, r.testBit k = (d.testBit k && a.testBit k)) ∧
    RmwClaim (.ori i src dst) i.bytes i.bytes src dst [] (fun a d _ r _ =>
      ∀ k, r.testBit k = (d.testBit k || a.testBit k)) ∧
    RmwClaim (.bici i src dst) i.bytes i.bytes src dst [] (fun a d _ r _ =>
      ∀ k, r.testBit k = (d.testBit k && !a.testBit k)) ∧
    RmwClaim (.xori i src dst) i.bytes i.bytes src dst [] (fun a d _ r _ =>
      ∀ k, r.testBit k = (d.testBit k != a.testBit k)) ∧
    MoveClaim (.comi i src dst) i.bytes i.bytes src dst [] (fun a r _ =>
      ∀ k, r.testBit k = (decide (k < i.bits) && !a.testBit k)) ∧
    MoveClaim (.noti i src dst) i.bytes i.bytes src dst [] (fun a r _ =>
      ∀ k, r.testBit k = if k = 0 then !a.testBit 0 else a.testBit k)

/-- ASHi, LSHi and ROTi by a signed byte count: left where positive; they complete, too, by a count of the length or
more (R301, R308 to R310; U22, log 6). -/
def Obligations.Shifts : Prop :=
  ∀ (i : IntLen) (cnt dst : Gen),
    RmwClaimIf (fun a _ => |signed 8 a| < i.bits) (.ashi i cnt dst) 1 i.bytes cnt dst [] (fun a d _ r _ =>
      r = wrapped i.bits ⌊(signed i.bits d : ℚ) * (2 : ℚ) ^ signed 8 a⌋) ∧
    RmwClaimIf (fun a _ => |signed 8 a| < i.bits) (.lshi i cnt dst) 1 i.bytes cnt dst [] (fun a d _ r _ =>
      r = wrapped i.bits ⌊(d : ℚ) * (2 : ℚ) ^ signed 8 a⌋) ∧
    RmwClaimIf (fun a _ => |signed 8 a| < i.bits) (.roti i cnt dst) 1 i.bytes cnt dst [] (fun a d _ r _ =>
      ∀ k : Nat, k < i.bits → r.testBit ((k + signed 8 a) % i.bits).toNat = d.testBit k) ∧
    RmwClaimIf (fun a _ => i.bits ≤ |signed 8 a|) (.ashi i cnt dst) 1 i.bytes cnt dst [] (fun _ _ _ _ _ => True) ∧
    RmwClaimIf (fun a _ => i.bits ≤ |signed 8 a|) (.lshi i cnt dst) 1 i.bytes cnt dst [] (fun _ _ _ _ _ => True) ∧
    RmwClaimIf (fun a _ => i.bits ≤ |signed 8 a|) (.roti i cnt dst) 1 i.bytes cnt dst [] (fun _ _ _ _ _ => True)

/-- Scondi stores 1 where its condition of R401 holds and 0 elsewhere (R311). -/
def Obligations.SaveCondition : Prop :=
  ∀ (i : IntLen) (g : Gen),
    StoreClaim (.seqi i g) i.bytes g (fun _ => True) (fun s r => r = if s.flag .z = true then 1 else 0) ∧
    StoreClaim (.snei i g) i.bytes g (fun _ => True) (fun s r => r = if s.flag .z = false then 1 else 0) ∧
    StoreClaim (.scsi i g) i.bytes g (fun _ => True) (fun s r => r = if s.flag .c = true then 1 else 0) ∧
    StoreClaim (.scci i g) i.bytes g (fun _ => True) (fun s r => r = if s.flag .c = false then 1 else 0) ∧
    StoreClaim (.shii i g) i.bytes g (fun _ => True) (fun s r => r = if s.flag .l = true then 1 else 0) ∧
    StoreClaim (.slsi i g) i.bytes g (fun _ => True) (fun s r => r = if s.flag .l = false then 1 else 0) ∧
    StoreClaim (.sgti i g) i.bytes g (fun _ => True) (fun s r => r = if s.flag .n = true then 1 else 0) ∧
    StoreClaim (.slei i g) i.bytes g (fun _ => True) (fun s r => r = if s.flag .n = false then 1 else 0) ∧
    StoreClaim (.sfsi i g) i.bytes g (fun _ => True) (fun s r => r = if s.flag .f = true then 1 else 0) ∧
    StoreClaim (.sfci i g) i.bytes g (fun _ => True) (fun s r => r = if s.flag .f = false then 1 else 0) ∧
    StoreClaim (.sloi i g) i.bytes g (fun _ => True)
      (fun s r => r = if s.flag .z = false ∧ s.flag .l = false then 1 else 0) ∧
    StoreClaim (.shsi i g) i.bytes g (fun _ => True)
      (fun s r => r = if s.flag .z = true ∨ s.flag .l = true then 1 else 0) ∧
    StoreClaim (.slti i g) i.bytes g (fun _ => True)
      (fun s r => r = if s.flag .z = false ∧ s.flag .n = false then 1 else 0) ∧
    StoreClaim (.sgei i g) i.bytes g (fun _ => True)
      (fun s r => r = if s.flag .z = true ∨ s.flag .n = true then 1 else 0)

/-! ## Bits and bit fields -/

/-- TBITi, SBITi, CBITi, IBITi and the interlocked forms: the bit is found from the base by a signed offset, F takes
it, and it alone is rewritten; the interlocked forms raise the Interlocked Operation pin over a memory base (R330
to R336; log 13; a base outside memory is no fault where the byte reached is inside, log 38). -/
def Obligations.BitOperations : Prop :=
  ∀ (i : IntLen) (off base : Gen),
    BitClaim (.tbiti i off base) i.bytes off base (fun b => b) (fun k _ => k) ∧
    BitClaim (.sbiti i off base) i.bytes off base (fun _ => true) (fun k _ => k) ∧
    BitClaim (.cbiti i off base) i.bytes off base (fun _ => false) (fun k _ => k) ∧
    BitClaim (.ibiti i off base) i.bytes off base (fun b => !b) (fun k _ => k) ∧
    BitClaim (.sbitii i off base) i.bytes off base (fun _ => true) (fun _ l => inMemory l) ∧
    BitClaim (.cbitii i off base) i.bytes off base (fun _ => false) (fun _ l => inMemory l)

/-- FFSi gives the first 1 bit of base at or above the offset, or 0 with F set where there is none; it completes where
the offset is the length or more (R337; U20, log 6). -/
def Obligations.FindFirstSet : Prop :=
  ∀ (i : IntLen) (base off : Gen) (s s1 : State) (v o : Nat) (l : Loc),
    s.mem.wf = true → s.cut = .never → readOp .int i.bytes s s base = .ok (v, s1) → locate .int s s1 off = .ok l →
    s1.readLoc 1 l = .ok o →
    ∃ (t : State) (r : Nat), exec (.ffsi i base off) s = .next t ∧ t.readLoc 1 l = .ok r ∧
      (∀ k, o ≤ k → k < i.bits → v.testBit k = true → (∀ j, o ≤ j → j < k → v.testBit j = false) →
        r = k ∧ t.flag .f = false) ∧
      (o < i.bits → (∀ k, o ≤ k → k < i.bits → v.testBit k = false) → r = 0 ∧ t.flag .f = true) ∧
      OnlyAt l 1 s1 t ∧ SameFlags [.f] s1 t ∧ SameStack s1 t ∧ SameControl s1 t ∧
      NextSequential (.ffsi i base off) s t

/-- EXTi and EXTSi: the field, right-justified, zero-filled or cut to the length (R340, R343, R345; a base outside memory
is no fault where the bytes reached are inside, log 38). -/
def Obligations.ExtractField : Prop :=
  ∀ (i : IntLen) (off : Fin 8) (base dst : Gen) (len : Disp) (o5 : BitVec 3) (l5 : BitVec 5) (l c : Loc) (k n d : Nat),
    StoreClaim (.exti i off base dst len) i.bytes dst
      (fun s => len.value = n ∧ 1 ≤ n ∧ locate .int s s base = .ok l ∧ FieldIn l s.r[off].toInt n c k ∧
        s.readLoc 4 c = .ok d)
      (fun _ r => ∀ j, r.testBit j = (decide (j < n) && decide (j < i.bits) && d.testBit (k + j))) ∧
    StoreClaim (.extsi i base dst o5 l5) i.bytes dst
      (fun s => n = l5.toNat + 1 ∧ locate .int s s base = .ok l ∧ FieldIn l o5.toNat n c k ∧ s.readLoc 4 c = .ok d)
      (fun _ r => ∀ j, r.testBit j = (decide (j < n) && decide (j < i.bits) && d.testBit (k + j)))

/-- INSi and INSSi: the field takes the low bits of src and every other bit of its double-word is kept (R340, R344,
R347; a base outside memory is no fault where the bytes reached are inside, log 38). -/
def Obligations.InsertField : Prop :=
  ∀ (i : IntLen) (off : Fin 8) (src base : Gen) (len : Disp) (o5 : BitVec 3) (l5 : BitVec 5) (ins : Instr) (o : Int)
    (s s1 : State) (k n v d : Nat) (l c : Loc),
    (ins = .insi i off src base len ∧ len.value = n ∧ 1 ≤ n ∧ o = s.r[off].toInt) ∨
      (ins = .inssi i src base o5 l5 ∧ n = l5.toNat + 1 ∧ o = o5.toNat) →
    s.mem.wf = true → s.cut = .never → readOp .int i.bytes s s src = .ok (v, s1) → locate .int s s1 base = .ok l →
    FieldIn l o n c k → s1.readLoc 4 c = .ok d →
    ∃ (t : State) (r : Nat), exec ins s = .next t ∧ t.readLoc 4 c = .ok r ∧
      (∀ j, r.testBit j = if k ≤ j ∧ j < k + n then v.testBit (j - k) else d.testBit j) ∧
      OnlyAt c 4 s1 t ∧ SameFlags [] s1 t ∧ SameStack s1 t ∧ SameControl s1 t ∧ NextSequential ins s t

/-- What the spec leaves undefined as an operand stops by name: a field length outside 1 to 32 (U19), a block length
that no element count gives (U26), an odd register for a pair or a double-precision operand, as source and as destination
(U5), a bit or a field outside its base register (U23), and a field of memory that reaches past four bytes (U24). The
names are the model's (log 31). -/
def Obligations.UndefinedOperands : Prop :=
  ∀ (i : IntLen) (off : Fin 8) (a b : Gen) (len : Disp) (s : State),
    (len.value < 1 ∨ 32 < len.value →
      exec (.exti i off a b len) s = .refused .fieldLength ∧ exec (.insi i off a b len) s = .refused .fieldLength) ∧
    ((∀ k : Nat, k * i.bytes < 16 → len.value ≠ k * i.bytes) →
      exec (.movmi i a b len) s = .refused .blockLength ∧ exec (.cmpmi i a b len) s = .refused .blockLength) ∧
    (∀ (k : Fin 8) (s1 : State) (v : Nat), k.val % 2 = 1 → readOp .int i.bytes s s a = .ok (v, s1) →
      exec (.meii i a (.mode (.reg k))) s = .fault .oddRegisterPair ∧
      exec (.deii i a (.mode (.reg k))) s = .fault .oddRegisterPair) ∧
    (∀ k : Fin 8, k.val % 2 = 1 → s.cfgF = true →
      ∀ ins ∈ [Instr.addf .double (.mode (.reg k)) b, .subf .double (.mode (.reg k)) b, .mulf .double (.mode (.reg k)) b,
        .divf .double (.mode (.reg k)) b, .cmpf .double (.mode (.reg k)) b, .negf .double (.mode (.reg k)) b,
        .absf .double (.mode (.reg k)) b, .movf .double (.mode (.reg k)) b, .movlf (.mode (.reg k)) b,
        .roundfi .double i (.mode (.reg k)) b, .truncfi .double i (.mode (.reg k)) b,
        .floorfi .double i (.mode (.reg k)) b], exec ins s = .fault .oddRegisterPair) ∧
    (∀ (k : Fin 8) (s1 : State) (v : Nat), readOp .int i.bytes s s a = .ok (v, s1) →
      signed i.bits v < 0 ∨ 32 ≤ signed i.bits v →
      ∀ ins ∈ [Instr.tbiti i a (.mode (.reg k)), .sbiti i a (.mode (.reg k)), .cbiti i a (.mode (.reg k)),
        .ibiti i a (.mode (.reg k)), .sbitii i a (.mode (.reg k)), .cbitii i a (.mode (.reg k))],
        exec ins s = .fault .bitOutsideRegister) ∧
    (∀ (k : Fin 8) (s1 : State) (v : Nat), k.val % 2 = 1 → s.cfgF = true →
      (readOp .fp 8 s s a = .ok (v, s1) →
        (∀ ins ∈ [Instr.addf .double a (.mode (.reg k)), .subf .double a (.mode (.reg k)),
          .mulf .double a (.mode (.reg k)), .divf .double a (.mode (.reg k)), .cmpf .double a (.mode (.reg k)),
          .movf .double a (.mode (.reg k))], exec ins s = .fault .oddRegisterPair) ∧
        (¬ Reserved .double v → ∀ ins ∈ [Instr.negf .double a (.mode (.reg k)), .absf .double a (.mode (.reg k))],
          exec ins s = .fault .oddRegisterPair)) ∧
      (readOp .fp 4 s s a = .ok (v, s1) → ¬ Reserved .single v →
        exec (.movfl a (.mode (.reg k))) s = .fault .oddRegisterPair) ∧
      (readOp .int i.bytes s s a = .ok (v, s1) →
        exec (.movif i .double a (.mode (.reg k))) s = .fault .oddRegisterPair)) ∧
    (∀ (ins : Instr) (n : Nat) (o : Int) (o3 : BitVec 3) (l5 : BitVec 5),
      (ins = .exti i off a b len ∧ len.value = n ∧ 1 ≤ n ∧ n ≤ 32 ∧ o = s.r[off].toInt) ∨
        (ins = .extsi i a b o3 l5 ∧ n = l5.toNat + 1 ∧ o = o3.toNat) →
      (∀ k : Fin 8, a = .mode (.reg k) → o < 0 ∨ 32 < o + n → exec ins s = .fault .bitOutsideRegister) ∧
      (∀ ea : Dword, locate .int s s a = .ok (.mem ea) → 0 ≤ ea.toNat + ⌊(o : ℚ) / 8⌋ →
        ea.toNat + ⌊(o : ℚ) / 8⌋ < 16777216 → 32 < o - 8 * ⌊(o : ℚ) / 8⌋ + n → exec ins s = .fault .fieldTooWide)) ∧
    (∀ (ins : Instr) (n : Nat) (o : Int) (o3 : BitVec 3) (l5 : BitVec 5) (s1 : State) (v : Nat),
      (ins = .insi i off a b len ∧ len.value = n ∧ 1 ≤ n ∧ n ≤ 32 ∧ o = s.r[off].toInt) ∨
        (ins = .inssi i a b o3 l5 ∧ n = l5.toNat + 1 ∧ o = o3.toNat) →
      readOp .int i.bytes s s a = .ok (v, s1) →
      (∀ k : Fin 8, b = .mode (.reg k) → o < 0 ∨ 32 < o + n → exec ins s = .fault .bitOutsideRegister) ∧
      (∀ ea : Dword, locate .int s s1 b = .ok (.mem ea) → 0 ≤ ea.toNat + ⌊(o : ℚ) / 8⌋ →
        ea.toNat + ⌊(o : ℚ) / 8⌋ < 16777216 → 32 < o - 8 * ⌊(o : ℚ) / 8⌋ + n → exec ins s = .fault .fieldTooWide))

/-! ## Addresses -/

/-- ADDR and LXPD store an effective address, CVTP a bit address, and no flag changes (R338, R440, R441; CVTP does so
for a base outside memory too, log 40). -/
def Obligations.AddressStores : Prop :=
  ∀ (src dst : Gen) (d1 d2 : Disp) (off : Fin 8) (a : Dword),
    StoreClaim (.addr src dst) 4 dst (fun s => addrOf s s src = .ok a) (fun _ r => r = a.toNat) ∧
    StoreClaim (.lxpd d1 d2 dst) 4 dst (fun s => addrOf s s (.mode (.ext d1 d2)) = .ok a) (fun _ r => r = a.toNat) ∧
    StoreClaim (.cvtp off src dst) 4 dst (fun s => addrOf s s src = .ok a)
      (fun s r => r = (8 * a.toNat + s.r[off].toNat) % 2 ^ 32)

/-! ## Strings -/

/-- One element of a String instruction that goes on: R0 counts it, R1 (and R2) move to the next one, PC stays; MOVS
stores it, SKPS stores nothing, CMPS has found it equal (R361 to R370; log 23). -/
def Obligations.StringElement : Prop :=
  ∀ (i : IntLen) (o : StrOpt) (tr : Bool) (n : Nat) (s : State) (e x y : Nat),
    n = (if tr then 1 else i.bytes) → s.mem.wf = true → s.cut = .never → 0 < s.r[0].toNat → s.r[0].toNat < 2 ^ 31 →
    s.memRead s.r[1] n = .ok e →
    (if tr then s.memRead (s.r[3] + BitVec.ofNat 32 e) 1 = .ok x else x = e) →
    ¬ Matches o x (s.r[4].toNat % 256 ^ n) →
    (s.memRead s.r[2] n = .ok y → ∃ t, exec (if tr then .movst o else .movsi i o) s = .next t ∧
      t.r[0] = s.r[0] - 1 ∧ t.r[1] = s.r[1] + BitVec.ofInt 32 (stride o n) ∧
      t.r[2] = s.r[2] + BitVec.ofInt 32 (stride o n) ∧ SameRegs [0, 1, 2] s t ∧ t.memRead s.r[2] n = .ok x ∧
      SameOutside s.r[2].toNat n s t ∧ SameFpRegs [] s t ∧ SameFlags [] s t ∧ SameStack s t ∧ SameControl s t ∧
      t.pc = s.pc) ∧
    (s.memRead s.r[2] n = .ok x → ∃ t, exec (if tr then .cmpst o else .cmpsi i o) s = .next t ∧
      t.r[0] = s.r[0] - 1 ∧ t.r[1] = s.r[1] + BitVec.ofInt 32 (stride o n) ∧
      t.r[2] = s.r[2] + BitVec.ofInt 32 (stride o n) ∧ SameRegs [0, 1, 2] s t ∧ SameMemory s t ∧
      SameFpRegs [] s t ∧ EqualFlags t.psr ∧ SameFlags [.z, .n, .l] s t ∧ SameStack s t ∧ SameControl s t ∧
      t.pc = s.pc) ∧
    (∃ t, exec (if tr then .skpst o else .skpsi i o) s = .next t ∧
      t.r[0] = s.r[0] - 1 ∧ t.r[1] = s.r[1] + BitVec.ofInt 32 (stride o n) ∧ SameRegs [0, 1] s t ∧
      SameMemory s t ∧ SameFpRegs [] s t ∧ SameFlags [] s t ∧ SameStack s t ∧ SameControl s t ∧ t.pc = s.pc)

/-- A String instruction ends with F clear where R0 is 0, and with F set at an element that meets its Until or While
condition; CMPS then reports equality. CMPS ends with F clear at an unequal pair, Z, N and L as CMPi sets them. The
registers stay at the element (R363, R364). A count of 2^31 or more stops by name (U25, log 31). -/
def Obligations.StringEnd : Prop :=
  ∀ (i : IntLen) (o : StrOpt) (tr : Bool) (n : Nat) (ins : Instr) (s : State),
    n = (if tr then 1 else i.bytes) →
    ins ∈ (if tr then [.movst o, .cmpst o, .skpst o] else [.movsi i o, .cmpsi i o, .skpsi i o]) →
    (s.r[0] = 0 → ∃ t, exec ins s = .next t ∧ t.flag .f = false ∧ SameData s t ∧ NextSequential ins s t ∧
      (if ins = .cmpst o ∨ ins = .cmpsi i o then EqualFlags t.psr ∧ SameFlags [.f, .z, .n, .l] s t
        else SameFlags [.f] s t)) ∧
    (∀ e x, 0 < s.r[0].toNat → s.r[0].toNat < 2 ^ 31 → s.memRead s.r[1] n = .ok e →
      (if tr then s.memRead (s.r[3] + BitVec.ofNat 32 e) 1 = .ok x else x = e) →
      Matches o x (s.r[4].toNat % 256 ^ n) →
      ∃ t, exec ins s = .next t ∧ t.flag .f = true ∧ SameData s t ∧ NextSequential ins s t ∧
        (if ins = .cmpst o ∨ ins = .cmpsi i o then EqualFlags t.psr ∧ SameFlags [.f, .z, .n, .l] s t
          else SameFlags [.f] s t)) ∧
    (∀ e x y, ins = .cmpst o ∨ ins = .cmpsi i o → 0 < s.r[0].toNat → s.r[0].toNat < 2 ^ 31 →
      s.memRead s.r[1] n = .ok e →
      (if tr then s.memRead (s.r[3] + BitVec.ofNat 32 e) 1 = .ok x else x = e) →
      ¬ Matches o x (s.r[4].toNat % 256 ^ n) → s.memRead s.r[2] n = .ok y → x ≠ y →
      ∃ t, exec ins s = .next t ∧ Compared (8 * n) x y t.psr ∧ t.flag .f = false ∧ SameFlags [.f, .z, .n, .l] s t ∧
        SameData s t ∧ NextSequential ins s t) ∧
    (2 ^ 31 ≤ s.r[0].toNat → exec ins s = .fault .negativeCount)

/-! ## Blocks and arrays -/

/-- MOVMi copies a block of up to 16 bytes; where the blocks overlap it still writes block2 alone (R380, R382; U21,
log 6). -/
def Obligations.BlockMove : Prop :=
  ∀ (i : IntLen) (block1 block2 : Gen) (len : Disp) (m : Nat) (s : State) (a b : Dword) (v old : Nat),
    s.mem.wf = true → s.cut = .never → 1 ≤ m → m * i.bytes ≤ 16 → len.value = ((m - 1) * i.bytes : Nat) →
    addrOf s s block1 = .ok a → addrOf s s block2 = .ok b → s.memRead a (m * i.bytes) = .ok v →
    s.memRead b (m * i.bytes) = .ok old →
    ∃ t, exec (.movmi i block1 block2 len) s = .next t ∧
      (a.toNat + m * i.bytes ≤ b.toNat ∨ b.toNat + m * i.bytes ≤ a.toNat → t.memRead b (m * i.bytes) = .ok v) ∧
      SameRegs [] s t ∧ SameFpRegs [] s t ∧ SameOutside b.toNat (m * i.bytes) s t ∧ SameFlags [] s t ∧
      SameStack s t ∧ SameControl s t ∧ NextSequential (.movmi i block1 block2 len) s t

/-- CMPMi compares as CMPi does the first unequal pair of elements, and finds blocks without one equal (R380,
R383). -/
def Obligations.BlockCompare : Prop :=
  ∀ (i : IntLen) (block1 block2 : Gen) (len : Disp) (m j : Nat) (s : State) (a b : Dword) (x y : Nat → Nat),
    1 ≤ m → m * i.bytes ≤ 16 → len.value = ((m - 1) * i.bytes : Nat) →
    addrOf s s block1 = .ok a → addrOf s s block2 = .ok b →
    (∀ k ≤ j, k < m → s.memRead (a + BitVec.ofNat 32 (k * i.bytes)) i.bytes = .ok (x k) ∧
      s.memRead (b + BitVec.ofNat 32 (k * i.bytes)) i.bytes = .ok (y k)) →
    (∀ k < j, k < m → x k = y k) → (j < m → x j ≠ y j) →
    ∃ t, exec (.cmpmi i block1 block2 len) s = .next t ∧
      (if j < m then Compared i.bits (x j) (y j) t.psr else EqualFlags t.psr) ∧
      OnlyControl [.z, .n, .l] s t ∧ NextSequential (.cmpmi i block1 block2 len) s t

/-- CHECKi subtracts the lower bound of a signed value inside its bounds and clears F, and sets F outside them, where
it completes, too (R384; U15, log 6). INDEXi computes accum * (length + 1) + index modulo 2^32 (R385; D13, log
17). -/
def Obligations.CheckIndex : Prop :=
  ∀ (i : IntLen) (k : Fin 8) (bounds src : Gen) (s s1 s2 : State) (a : Dword) (u l v w : Nat),
    (addrOf s s bounds = .ok a → s.memRead a i.bytes = .ok u →
      s.memRead (a + BitVec.ofNat 32 i.bytes) i.bytes = .ok l → readOp .int i.bytes s s src = .ok (v, s1) →
      ∃ t, exec (.checki i k bounds src) s = .next t ∧
        (if signed i.bits l ≤ signed i.bits v ∧ signed i.bits v ≤ signed i.bits u
          then t.flag .f = false ∧ t.r[k] = BitVec.ofInt 32 (signed i.bits v - signed i.bits l)
          else t.flag .f = true) ∧
        SameRegs [k] s1 t ∧ SameFpRegs [] s1 t ∧ SameMemory s1 t ∧ SameFlags [.f] s1 t ∧ SameStack s1 t ∧
        SameControl s1 t ∧ NextSequential (.checki i k bounds src) s t) ∧
    (readOp .int i.bytes s s bounds = .ok (v, s1) → readOp .int i.bytes s s1 src = .ok (w, s2) →
      ∃ t, exec (.indexi i k bounds src) s = .next t ∧
        t.r[k].toNat = (s.r[k].toNat * (v + 1) + w) % 2 ^ 32 ∧
        SameRegs [k] s2 t ∧ SameFpRegs [] s2 t ∧ SameMemory s2 t ∧ SameFlags [] s2 t ∧ SameStack s2 t ∧
        SameControl s2 t ∧ NextSequential (.indexi i k bounds src) s t)

/-! ## Control -/

/-- Bcond branches by its displacement where its condition of R401 holds and passes control on elsewhere; BR always
branches, CASEi by a signed operand. ACBi adds its constant to the index and branches while the sum is not zero (R401,
R402, R404 to R407; log 4). -/
def Obligations.Branches : Prop :=
  (∀ (d : Disp) (s : State) (ins : Instr) (c : Bool),
    (ins, c) ∈ [(.beq d, s.flag .z), (.bne d, !s.flag .z), (.bcs d, s.flag .c), (.bcc d, !s.flag .c),
      (.bhi d, s.flag .l), (.bls d, !s.flag .l), (.bgt d, s.flag .n), (.ble d, !s.flag .n), (.bfs d, s.flag .f),
      (.bfc d, !s.flag .f), (.blo d, !s.flag .z && !s.flag .l), (.bhs d, s.flag .z || s.flag .l),
      (.blt d, !s.flag .z && !s.flag .n), (.bge d, s.flag .z || s.flag .n), (.br d, true)] →
    ∃ t, exec ins s = .next t ∧ (if c then Branched d.value s t else NextSequential ins s t) ∧ OnlyControl [] s t) ∧
  (∀ (i : IntLen) (g : Gen) (s s1 : State) (v : Nat), readOp .int i.bytes s s g = .ok (v, s1) →
    ∃ t, exec (.casei i g) s = .next t ∧ Branched (signed i.bits v) s t ∧ OnlyControl [] s1 t) ∧
  ∀ (i : IntLen) (q : BitVec 4) (g : Gen) (d : Disp) (s : State) (v : Nat) (l : Loc),
    s.mem.wf = true → s.cut = .never → locate .int s s g = .ok l → s.readLoc i.bytes l = .ok v →
    ∃ t, exec (.acbi i q g d) s = .next t ∧ t.readLoc i.bytes l = .ok (wrapped i.bits (v + q.toInt)) ∧
      (if wrapped i.bits (v + q.toInt) = 0 then NextSequential (.acbi i q g d) s t else Branched d.value s t) ∧
      OnlyAt l i.bytes s t ∧ SameFlags [] s t ∧ SameStack s t ∧ SameControl s t

/-- JUMP goes to an effective address; JSR and BSR push the return address first; RET pops it and adds its constant to
the stack pointer (R403, R408 to R410). -/
def Obligations.LocalCalls : Prop :=
  ∀ (s : State) (g : Gen) (d : Disp) (a : Dword),
    (addrOf s s g = .ok a → ∃ t, exec (.jump g) s = .next t ∧ t.pc.toNat = a.toNat % 16777216 ∧ OnlyControl [] s t) ∧
    (s.mem.wf = true → s.cut = .never → 4 ≤ s.sp.toNat → checkAccess (s.sp.toNat - 4) 4 = .ok () →
      (addrOf s s g = .ok a → s.pc.toNat + instrLength (.jsr g) < 16777216 →
        ∃ t, exec (.jsr g) s = .next t ∧ t.pc.toNat = a.toNat % 16777216 ∧
          t.mem.readLE (s.sp.toNat - 4) 4 = s.pc.toNat + instrLength (.jsr g) ∧
          SameOutside (s.sp.toNat - 4) 4 s t ∧ StackMoved (-4) s t ∧ SameRegs [] s t ∧ SameFpRegs [] s t ∧
          SameFlags [] s t ∧ SameControl s t) ∧
      (s.pc.toNat + instrLength (.bsr d) < 16777216 →
        ∃ t, exec (.bsr d) s = .next t ∧ Branched d.value s t ∧
          t.mem.readLE (s.sp.toNat - 4) 4 = s.pc.toNat + instrLength (.bsr d) ∧
          SameOutside (s.sp.toNat - 4) 4 s t ∧ StackMoved (-4) s t ∧ SameRegs [] s t ∧ SameFpRegs [] s t ∧
          SameFlags [] s t ∧ SameControl s t)) ∧
    (s.cut = .never → checkAccess s.sp.toNat 4 = .ok () → s.sp.toNat + 4 < 16777216 →
      ∃ t, exec (.ret d) s = .next t ∧ t.pc.toNat = s.mem.readLE s.sp.toNat 4 % 16777216 ∧
        StackMoved (4 + d.value) s t ∧ SameRegs [] s t ∧ SameFpRegs [] s t ∧ SameMemory s t ∧ SameFlags [] s t ∧
        SameControl s t)

/-- CXP and CXPD save MOD and the return address on the stack and enter the procedure of a descriptor: MOD, SB and PC
(R93, R94, R411, R412; the two bytes above MOD are free, U16, log 6, and written, log 39). -/
def Obligations.ExternalCalls : Prop :=
  ∀ (s : State) (g : Gen) (disp : Disp) (ins : Instr) (a : Dword) (b p : Nat),
    (ins = .cxp disp ∧ s.mod.toNat < 0xFFF1 ∧ s.memRead (BitVec.ofNat 32 (s.mod.toNat + 4)) 4 = .ok b ∧
        s.memRead (BitVec.ofInt 32 (b + 4 * disp.value)) 4 = .ok p) ∨
      (ins = .cxpd g ∧ addrOf s s g = .ok a ∧ s.memRead a 4 = .ok p) →
    s.mem.wf = true → s.cut = .never → p % 65536 < 0xFFF1 → s.pc.toNat + instrLength ins < 16777216 → 8 ≤ s.sp.toNat →
    checkAccess (s.sp.toNat - 8) 8 = .ok () →
    ∃ t, exec ins s = .next t ∧ t.mod.toNat = p % 65536 ∧ t.sb.toNat = t.mem.readLE (p % 65536) 4 % 16777216 ∧
      t.pc.toNat = (t.mem.readLE (p % 65536 + 8) 4 + p / 65536) % 16777216 ∧
      t.mem.readLE (s.sp.toNat - 8) 4 = s.pc.toNat + instrLength ins ∧
      t.mem.readLE (s.sp.toNat - 4) 2 = s.mod.toNat ∧ SameOutside (s.sp.toNat - 8) 8 s t ∧ StackMoved (-8) s t ∧
      SameRegs [] s t ∧ SameFpRegs [] s t ∧ SameFlags [] s t ∧ t.fp = s.fp ∧ t.intbase = s.intbase ∧ t.fsr = s.fsr ∧
      t.interlock = s.interlock ∧ SameSystem s t

/-- RXP pops PC and MOD, reloads SB from the module descriptor and removes its parameters (R413). RETT and RETI, in
Supervisor Mode, pop PC, MOD and PSR and reload SB; RETT adds its constant to the stack pointer the new PSR selects
(R426, R427, R531; the reserved bits of the popped PSR read as 0, D4, log 5). -/
def Obligations.Returns : Prop :=
  ∀ (s : State) (d : Disp) (m w : Nat), s.cut = .never → s.sp.toNat + 8 < 16777216 →
    checkAccess s.sp.toNat 8 = .ok () → m = s.mem.readLE (s.sp.toNat + 4) 2 → m < 0xFFF1 →
    w = s.mem.readLE (s.sp.toNat + 6) 2 →
    (∃ t, exec (.rxp d) s = .next t ∧ t.pc.toNat = s.mem.readLE s.sp.toNat 4 % 16777216 ∧ t.mod.toNat = m ∧
      t.sb.toNat = s.mem.readLE m 4 % 16777216 ∧ StackMoved (8 + d.value) s t ∧ SameRegs [] s t ∧
      SameFpRegs [] s t ∧ SameMemory s t ∧ SameFlags [] s t ∧ t.fp = s.fp ∧ t.intbase = s.intbase ∧ t.fsr = s.fsr ∧
      t.interlock = s.interlock ∧ SameSystem s t) ∧
    (s.flag .u = false → ∃ t, exec (.rett d) s = .next t ∧ t.pc.toNat = s.mem.readLE s.sp.toNat 4 % 16777216 ∧
      t.mod.toNat = m ∧ t.sb.toNat = s.mem.readLE m 4 % 16777216 ∧ t.psr = BitVec.ofNat 16 w &&& 0x0FE7 ∧
      (t.flag .s = s.flag .s → StackMoved (8 + d.value) s t) ∧
      (t.flag .s ≠ s.flag .s →
        (if s.flag .s then t.sp1 else t.sp0).toNat = s.sp.toNat + 8 ∧
        (0 ≤ ((if s.flag .s then s.sp0 else s.sp1).toNat : Int) + d.value →
          ((if s.flag .s then s.sp0 else s.sp1).toNat : Int) + d.value < 16777216 →
          (t.sp.toNat : Int) = (if s.flag .s then s.sp0 else s.sp1).toNat + d.value)) ∧
      SameRegs [] s t ∧ SameFpRegs [] s t ∧ SameMemory s t ∧ t.fp = s.fp ∧ t.intbase = s.intbase ∧ t.fsr = s.fsr ∧
      t.interlock = s.interlock ∧ SameSystem s t) ∧
    (s.flag .u = false → (s.input.eoiByte.toNat < 128 ∨ ∃ a, s.cascadeAddress s.input.eoiByte = .ok a) →
      ∃ t, exec .reti s = .next t ∧ t.pc.toNat = s.mem.readLE s.sp.toNat 4 % 16777216 ∧
      t.mod.toNat = m ∧ t.sb.toNat = s.mem.readLE m 4 % 16777216 ∧ t.psr = BitVec.ofNat 16 w &&& 0x0FE7 ∧
      StackMoved 8 s t ∧ SameRegs [] s t ∧ SameFpRegs [] s t ∧ SameMemory s t ∧ t.fp = s.fp ∧
      t.intbase = s.intbase ∧ t.fsr = s.fsr ∧ t.interlock = s.interlock ∧ SameSystem s t)

/-- BPT (one byte F2, vector 8) and SVC (E2, vector 5) take their traps, FLAG (D2, vector 7) its trap where F is set; the
return address is the instruction's own. FLAG otherwise only passes control on (R420 to R422). -/
def Obligations.ExplicitTraps : Prop :=
  (∀ (ins : Instr) (b : Byte) (rest : List Byte), (ins, b) ∈ [(Instr.bpt, 0xF2), (.flag, 0xD2), (.svc, 0xE2)] →
    encode ins = [b] ∧ decode (b :: rest) = .ok (ins, rest)) ∧
  (∀ s : State, exec .bpt s = finish (s.trap .bpt) ∧ exec .svc s = finish (s.trap .svc) ∧
    (s.flag .f = true → exec .flag s = finish (s.trap .flg))) ∧
  ∀ s : State, s.mem.wf = true →
    (ExceptionReady s s.psr 8 s.pc.toNat → ∃ t, exec .bpt s = .next t ∧ ExceptionTaken s s.psr 8 s.pc.toNat t ∧
      Cleared [.s, .u, .p, .t] s.psr t.psr) ∧
    (ExceptionReady s s.psr 5 s.pc.toNat → ∃ t, exec .svc s = .next t ∧ ExceptionTaken s s.psr 5 s.pc.toNat t ∧
      Cleared [.s, .u, .p, .t] s.psr t.psr) ∧
    (s.flag .f = true → ExceptionReady s s.psr 7 s.pc.toNat → ∃ t, exec .flag s = .next t ∧
      ExceptionTaken s s.psr 7 s.pc.toNat t ∧ Cleared [.s, .u, .p, .t] s.psr t.psr) ∧
    (s.flag .f = false → ∃ t, exec .flag s = .next t ∧ OnlyControl [] s t ∧ NextSequential .flag s t)

/-! ## Service -/

/-- SAVE pushes the listed registers, R0 first; RESTORE pops them, R7 first, its list reversed (R443, R444, R180). -/
def Obligations.SaveRestore : Prop :=
  ∀ (l : Byte) (s : State), s.mem.wf = true → s.cut = .never →
    (4 * listedBelow l 8 ≤ s.sp.toNat →
      checkAccess (s.sp.toNat - 4 * listedBelow l 8) (4 * listedBelow l 8) = .ok () →
      ∃ t, exec (.save l) s = .next t ∧ StackMoved (-(4 * listedBelow l 8)) s t ∧
        (∀ k : Fin 8, l.getLsbD k.val = true →
          t.mem.readLE (s.sp.toNat - 4 * listedBelow l (k.val + 1)) 4 = s.r[k].toNat) ∧
        SameOutside (s.sp.toNat - 4 * listedBelow l 8) (4 * listedBelow l 8) s t ∧ SameRegs [] s t ∧
        SameFpRegs [] s t ∧ SameFlags [] s t ∧ SameControl s t ∧ NextSequential (.save l) s t) ∧
    (s.sp.toNat + 4 * listedBelow l 8 < 16777216 → checkAccess s.sp.toNat (4 * listedBelow l 8) = .ok () →
      ∃ t, exec (.restore l) s = .next t ∧ StackMoved (4 * listedBelow l 8) s t ∧
        (∀ k : Fin 8, t.r[7 - k.val].toNat =
          if l.getLsbD k.val then s.mem.readLE (s.sp.toNat + 4 * listedBelow l k.val) 4 else s.r[7 - k.val].toNat) ∧
        SameFpRegs [] s t ∧ SameMemory s t ∧ SameFlags [] s t ∧ SameControl s t ∧ NextSequential (.restore l) s t)

/-- ENTER saves FP, makes it point at the saved value, subtracts its constant, of either sign, from the stack pointer,
and saves the listed registers below the address `b` this gives, over the saved FP where a negative constant brings
them there; EXIT restores the registers, the stack pointer from FP, and FP (R445, R446). -/
def Obligations.EnterExit : Prop :=
  ∀ (l : Byte) (d : Disp) (b : Nat) (s : State), s.mem.wf = true → s.cut = .never →
    ((b : Int) = s.sp.toNat - 4 - d.value → b < 16777216 → 4 ≤ s.sp.toNat → 4 * listedBelow l 8 ≤ b →
      checkAccess (s.sp.toNat - 4) 4 = .ok () → checkAccess (b - 4 * listedBelow l 8) (4 * listedBelow l 8) = .ok () →
      ∃ t, exec (.enter l d) s = .next t ∧ t.fp.toNat + 4 = s.sp.toNat ∧
        StackMoved (-(4 + d.value + 4 * listedBelow l 8)) s t ∧
        (∀ k : Fin 8, l.getLsbD k.val = true →
          t.mem.readLE (b - 4 * listedBelow l (k.val + 1)) 4 = s.r[k].toNat) ∧
        (∀ x < 4, s.sp.toNat - 4 + x < b - 4 * listedBelow l 8 ∨ b ≤ s.sp.toNat - 4 + x →
          (t.mem.read (s.sp.toNat - 4 + x)).toNat = s.fp.toNat / 256 ^ x % 256) ∧
        (∀ x, x < s.sp.toNat - 4 ∨ s.sp.toNat ≤ x → x < b - 4 * listedBelow l 8 ∨ b ≤ x →
          t.mem.read x = s.mem.read x) ∧
        SameRegs [] s t ∧ SameFpRegs [] s t ∧ SameFlags [] s t ∧ t.sb = s.sb ∧ t.mod = s.mod ∧
        t.intbase = s.intbase ∧ t.fsr = s.fsr ∧ t.interlock = s.interlock ∧ SameSystem s t ∧
        NextSequential (.enter l d) s t) ∧
    (s.sp.toNat + 4 * listedBelow l 8 < 16777216 → checkAccess s.sp.toNat (4 * listedBelow l 8) = .ok () →
      s.fp.toNat + 4 < 16777216 → checkAccess s.fp.toNat 4 = .ok () →
      ∃ t, exec (.exit l) s = .next t ∧ t.fp.toNat = s.mem.readLE s.fp.toNat 4 % 16777216 ∧
        (if s.flag .s then t.sp1.toNat = s.fp.toNat + 4 ∧ t.sp0 = s.sp0
          else t.sp0.toNat = s.fp.toNat + 4 ∧ t.sp1 = s.sp1) ∧
        (∀ k : Fin 8, t.r[7 - k.val].toNat =
          if l.getLsbD k.val then s.mem.readLE (s.sp.toNat + 4 * listedBelow l k.val) 4 else s.r[7 - k.val].toNat) ∧
        SameFpRegs [] s t ∧ SameMemory s t ∧ SameFlags [] s t ∧ t.sb = s.sb ∧ t.mod = s.mod ∧
        t.intbase = s.intbase ∧ t.fsr = s.fsr ∧ t.interlock = s.interlock ∧ SameSystem s t ∧
        NextSequential (.exit l) s t)

/-- ADJSPi subtracts a signed operand from the stack pointer. BICPSRi and BISPSRi clear and set the implemented PSR
bits that src names, the word forms in Supervisor Mode (R447 to R449, R41, log 5). -/
def Obligations.StackPsrAdjust : Prop :=
  ∀ (i : IntLen) (src : Gen) (s s1 : State) (v : Nat), readOp .int i.bytes s s src = .ok (v, s1) →
    (∃ t, exec (.adjspi i src) s = .next t ∧ StackMoved (-signed i.bits v) s1 t ∧ SameRegs [] s1 t ∧
      SameFpRegs [] s1 t ∧ SameMemory s1 t ∧ SameFlags [] s1 t ∧ SameControl s1 t ∧
      NextSequential (.adjspi i src) s t) ∧
    (i = .b ∨ (i = .w ∧ s.flag .u = false) →
      (∃ t, exec (.bicpsri i src) s = .next t ∧ t.psr = s.psr &&& ~~~(BitVec.ofNat 16 v) &&& 0x0FE7 ∧
        SameData s1 t ∧ NextSequential (.bicpsri i src) s t) ∧
      (∃ t, exec (.bispsri i src) s = .next t ∧ t.psr = (s.psr ||| BitVec.ofNat 16 v) &&& 0x0FE7 ∧
        SameData s1 t ∧ NextSequential (.bispsri i src) s t))

/-- LPRi loads a dedicated register, right-justified and zero-filled, and nothing else; SPRi stores one. PSR and INTBASE
need Supervisor Mode (R450, R451, R24, R41; SPRi of SP stores its value before a push, D16, log 15). -/
def Obligations.DedicatedRegisters : Prop :=
  ∀ (i : IntLen) (p : ProcReg) (g : Gen),
    (∀ (s s1 : State) (v : Nat), (p = .psr ∨ p = .intbase → s.flag .u = false) →
      readOp .int i.bytes s s g = .ok (v, s1) →
      ∃ t, exec (.lpri i p g) s = .next t ∧ SameRegs [] s1 t ∧ SameFpRegs [] s1 t ∧ SameMemory s1 t ∧
        t.fsr = s1.fsr ∧ t.interlock = s1.interlock ∧ SameSystem s1 t ∧ NextSequential (.lpri i p g) s t ∧
        (if p = .fp then t.fp.toNat = v % 16777216 else t.fp = s1.fp) ∧
        (if p = .sb then t.sb.toNat = v % 16777216 else t.sb = s1.sb) ∧
        (if p = .intbase then t.intbase.toNat = v % 16777216 else t.intbase = s1.intbase) ∧
        (if p = .mod then t.mod.toNat = v % 65536 else t.mod = s1.mod) ∧
        (if p = .sp ∧ s.flag .s = true then t.sp1.toNat = v % 16777216 else t.sp1 = s1.sp1) ∧
        (if p = .sp ∧ s.flag .s = false then t.sp0.toNat = v % 16777216 else t.sp0 = s1.sp0) ∧
        (if p = .upsr ∨ (p = .psr ∧ i = .b) then
            t.psr = (s.psr &&& 0xFF00 ||| (BitVec.ofNat 16 v &&& 0x00FF)) &&& 0x0FE7
          else if p = .psr then t.psr = BitVec.ofNat 16 v &&& 0x0FE7 else t.psr = s1.psr)) ∧
    StoreClaim (.spri i p g) i.bytes g (fun s => p = .psr ∨ p = .intbase → s.flag .u = false)
      (fun s r => r = (match p with
        | .upsr => s.psr.toNat % 256
        | .psr => s.psr.toNat
        | .mod => s.mod.toNat
        | .fp => s.fp.toNat
        | .sb => s.sb.toNat
        | .intbase => s.intbase.toNat
        | .sp => if s.flag .s then s.sp1.toNat else s.sp0.toNat) % 2 ^ i.bits)

/-- SETCFG loads CFG in Supervisor Mode, where every device is attached (log 21); NOP passes control on, WAIT also
waits, DIA branches to itself (R456 to R459). -/
def Obligations.ConfigureWait : Prop :=
  ∀ (s : State) (c : BitVec 4),
    (s.flag .u = false → ∃ t, exec (.setcfg c) s = .next t ∧ t.cfg = c ∧ SameRegs [] s t ∧ SameFpRegs [] s t ∧
      SameMemory s t ∧ SameFlags [] s t ∧ SameStack s t ∧ SameBases s t ∧ t.mmu = s.mmu ∧ t.fsr = s.fsr ∧
      t.waiting = s.waiting ∧ t.nmiPending = s.nmiPending ∧ t.interlock = s.interlock ∧ t.env = s.env ∧
      NextSequential (.setcfg c) s t) ∧
    (∃ t, exec .nop s = .next t ∧ OnlyControl [] s t ∧ NextSequential .nop s t) ∧
    (∃ t, exec .wait s = .next t ∧ t.waiting = true ∧ OnlyControl [] { s with waiting := true } t ∧
      NextSequential .wait s t) ∧
    (∃ t, exec .dia s = .next t ∧ t.pc = s.pc ∧ OnlyControl [] s t)

/-! ## Memory management and custom slaves -/

/-- With CFG.M in Supervisor Mode, LMR loads and SMR stores a Memory Management register, and RDVAL and WRVAL set F as
the MMU answers, or abort (R60, R66, R482 to R484, R487, R488; BCNT is a 32-bit cell, log 12; translation is off, log
11; they complete at an address outside memory too, log 36). -/
def Obligations.MemoryManagement : Prop :=
  (∀ (m : MmuReg) (g : Gen) (s s1 : State) (v : Nat), s.cfgM = true → s.flag .u = false →
    readOp .int 4 s s g = .ok (v, s1) → ∃ t, exec (.lmr m g) s = .next t ∧
      t.mmu = (match m with
        | .bpr0 => { s.mmu with bpr0 := BitVec.ofNat 32 v }
        | .bpr1 => { s.mmu with bpr1 := BitVec.ofNat 32 v }
        | .pf0 => { s.mmu with pf0 := BitVec.ofNat 32 v }
        | .pf1 => { s.mmu with pf1 := BitVec.ofNat 32 v }
        | .sc => { s.mmu with sc := BitVec.ofNat 32 v }
        | .msr => { s.mmu with msr := BitVec.ofNat 32 v }
        | .bcnt => { s.mmu with bcnt := BitVec.ofNat 32 v }
        | .ptb0 => { s.mmu with ptb0 := BitVec.ofNat 32 v }
        | .ptb1 => { s.mmu with ptb1 := BitVec.ofNat 32 v }
        | .eia => { s.mmu with eia := BitVec.ofNat 32 v }) ∧
      OnlyControl [] { s1 with mmu := t.mmu } t ∧ NextSequential (.lmr m g) s t) ∧
  (∀ (m : MmuReg) (g : Gen),
    StoreClaim (.smr m g) 4 g (fun s => s.cfgM = true ∧ s.flag .u = false)
      (fun s r => match m with
        | .bpr0 => r = s.mmu.bpr0.toNat
        | .bpr1 => r = s.mmu.bpr1.toNat
        | .pf0 => r = s.mmu.pf0.toNat
        | .pf1 => r = s.mmu.pf1.toNat
        | .sc => r = s.mmu.sc.toNat
        | .msr => r = s.mmu.msr.toNat
        | .bcnt => r = s.mmu.bcnt.toNat
        | .ptb0 => r = s.mmu.ptb0.toNat
        | .ptb1 => r = s.mmu.ptb1.toNat
        | .eia => r = s.mmu.eia.toNat)) ∧
  ∀ (g : Gen) (s : State) (a : Dword) (ins : Instr), s.cfgM = true → s.flag .u = false →
    ins = .rdval g ∨ ins = .wrval g → addrOf s s g = .ok a →
    (s.input.mmu ≠ .level1Invalid → ∃ t, exec ins s = .next t ∧ t.flag .f = decide (s.input.mmu = .denied) ∧
      OnlyControl [.f] s t ∧ NextSequential ins s t) ∧
    (s.input.mmu = .level1Invalid → exec ins s = finish s.abort)

/-- MOVSUi and MOVUSi copy an integer between memory addresses in Supervisor Mode (R485, R486; both spaces are one with
translation off, log 11). MOVSUi calculates both addresses before it reads src, MOVUSi reads src before it calculates the
address of dest: what stops or aborts the earlier access is the outcome, whatever the later one does (R485, R486, R110). -/
def Obligations.SpaceMoves : Prop :=
  ∀ (i : IntLen) (src dst : Gen) (s : State) (a : Dword), s.flag .u = false → addrOf s s src = .ok a →
    (∀ (ins : Instr) (b : Dword) (v old : Nat),
      ins = .movsui i src dst ∨ ins = .movusi i src dst → s.mem.wf = true → s.cut = .never →
      addrOf s s dst = .ok b → s.memRead a i.bytes = .ok v → s.memRead b i.bytes = .ok old →
      ∃ t, exec ins s = .next t ∧ t.memRead b i.bytes = .ok v ∧ SameRegs [] s t ∧ SameFpRegs [] s t ∧
        SameOutside b.toNat i.bytes s t ∧ SameFlags [] s t ∧ SameStack s t ∧ SameControl s t ∧ NextSequential ins s t) ∧
    ∀ e : Stop,
      (addrOf s s dst = .error e → exec (.movsui i src dst) s = s.run (.error e)) ∧
      (s.memRead a i.bytes = .error e → exec (.movusi i src dst) s = s.run (.error e)) ∧
      ∀ (b : Dword) (v : Nat),
        (addrOf s s dst = .ok b → s.memRead a i.bytes = .error e → exec (.movsui i src dst) s = s.run (.error e)) ∧
        (s.memRead a i.bytes = .ok v → addrOf s s dst = .error e → exec (.movusi i src dst) s = s.run (.error e))

/-- Without its slave a custom instruction takes Trap (UND); with it, the slave's operation is not the spec's to give
and it stops by name, or takes Trap (ILL) where it is privileged (R491, R492, U27, log 22). Without the MMU all four
Memory Management instructions, and without the FPU every floating-point instruction, take Trap (UND) in either mode
(R265, R482, D14, log 14). -/
def Obligations.SlaveInstructions : Prop :=
  ∀ (s : State) (g : Gen),
    (s.cfgC = false → s.mem.wf = true → ExceptionReady s s.psr 10 s.pc.toNat →
      ∀ i ∈ [Instr.custom16, .custom36, .customB6], ∃ t, exec i s = .next t ∧
        ExceptionTaken s s.psr 10 s.pc.toNat t ∧ Cleared [.s, .u, .p, .t] s.psr t.psr) ∧
    (s.cfgC = true → exec .custom36 s = .refused .customSlave ∧ exec .customB6 s = .refused .customSlave ∧
      (s.flag .u = true → exec .custom16 s = finish (s.trap .ill)) ∧
      (s.flag .u = false → exec .custom16 s = .refused .customSlave)) ∧
    (s.cfgM = false → ∀ m : MmuReg, ∀ ins ∈ [Instr.lmr m g, .smr m g, .rdval g, .wrval g],
      exec ins s = finish (s.trap .und)) ∧
    (s.cfgF = false → ∀ (f : FpLen) (i : IntLen) (a b : Gen) (hi : BitVec 10) (lo : BitVec 2),
      ∀ ins ∈ [Instr.addf f a b, .subf f a b, .mulf f a b, .divf f a b, .cmpf f a b, .negf f a b, .absf f a b,
        .movf f a b, .movif i f a b, .movlf a b, .movfl a b, .roundfi f i a b, .truncfi f i a b, .floorfi f i a b,
        .lfsr g, .sfsr g, .fpuIllegal0011 hi lo, .fpuIllegal1001 hi lo], exec ins s = finish (s.trap .und))

/-! ## Floating point -/

/-- ADDf, SUBf, MULf and DIVf give the exact result rounded once by the mode in FSR, where it is not too small and does
not round out of range; TT and IF say whether it was exact (R255, R263, R264, R270 to R273). -/
def Obligations.FloatArithmetic : Prop :=
  ∀ (f : FpLen) (src dst : Gen) (ins : Instr) (val : ℚ → ℚ → ℚ),
    (ins = .addf f src dst ∧ val = (fun a b => b + a)) ∨ (ins = .subf f src dst ∧ val = (fun a b => b - a)) ∨
      (ins = .mulf f src dst ∧ val = (fun a b => b * a)) ∨ (ins = .divf f src dst ∧ val = (fun a b => b / a)) →
    FpClaimIf (fun a b v => ¬ Reserved f a ∧ ¬ Reserved f b ∧
        fpLeast f ≤ |val (fpNumber f a) (fpNumber f b)| ∧
        ¬ RoundsOut f (v.toNat / 128 % 4) (val (fpNumber f a) (fpNumber f b)) ∧
        (v.getLsbD 5 = false ∨
          ∃ p, p < 256 ^ f.bytes ∧ ¬ Reserved f p ∧ fpNumber f p = val (fpNumber f a) (fpNumber f b)))
      ins f src dst
      (fun a b v r v' => Rounds f (v.toNat / 128 % 4) (val (fpNumber f a) (fpNumber f b)) r ∧
        (fpNumber f r = val (fpNumber f a) (fpNumber f b) → FsrUpdated v v' 0 false false) ∧
        (fpNumber f r ≠ val (fpNumber f a) (fpNumber f b) → FsrUpdated v v' 6 false true))

/-- A zero result of ADDf and SUBf is negative for two negative zeros, or a sum of opposite signs rounded toward minus
infinity; one of MULf and DIVf by the signs; an underflow of the four or of MOVLF that is not enabled gives +0 and sets UF
(R256, R258, R270 to R273, R281; underflow is tested before rounding, D17, log 16). -/
def Obligations.FloatZeros : Prop :=
  ∀ (f : FpLen) (src dst : Gen),
    FpClaimIf (fun a b _ => ¬ Reserved f a ∧ ¬ Reserved f b ∧ fpNumber f b + fpNumber f a = 0) (.addf f src dst) f src
      dst (fun a b v r v' => expField f r = 0 ∧ fracField f r = 0 ∧ FsrUpdated v v' 0 false false ∧
        negative f r = if fpNumber f a = 0 ∧ negative f a = negative f b then negative f a
          else decide (v.toNat / 128 % 4 = 3)) ∧
    FpClaimIf (fun a b _ => ¬ Reserved f a ∧ ¬ Reserved f b ∧ fpNumber f b - fpNumber f a = 0) (.subf f src dst) f src
      dst (fun a b v r v' => expField f r = 0 ∧ fracField f r = 0 ∧ FsrUpdated v v' 0 false false ∧
        negative f r = if fpNumber f a = 0 ∧ negative f a ≠ negative f b then negative f b
          else decide (v.toNat / 128 % 4 = 3)) ∧
    FpClaimIf (fun a b _ => ¬ Reserved f a ∧ ¬ Reserved f b ∧ fpNumber f b * fpNumber f a = 0) (.mulf f src dst) f src
      dst (fun a b v r v' => expField f r = 0 ∧ fracField f r = 0 ∧ FsrUpdated v v' 0 false false ∧
        negative f r = (negative f a != negative f b)) ∧
    FpClaimIf (fun a b _ => ¬ Reserved f a ∧ ¬ Reserved f b ∧ fpNumber f a ≠ 0 ∧ fpNumber f b = 0) (.divf f src dst) f
      src dst (fun a b v r v' => expField f r = 0 ∧ fracField f r = 0 ∧ FsrUpdated v v' 0 false false ∧
        negative f r = (negative f a != negative f b)) ∧
    FpMoveClaimIf (fun a v => ¬ Reserved .double a ∧ fpNumber .double a ≠ 0 ∧ |fpNumber .double a| < fpLeast .single ∧
        v.getLsbD 3 = false) (.movlf src dst) .fp .fp 8 4 src dst (fun _ v r v' => r = 0 ∧ FsrUpdated v v' 1 true false) ∧
    ∀ (ins : Instr) (val : ℚ → ℚ → ℚ),
      (ins = .addf f src dst ∧ val = (fun a b => b + a)) ∨ (ins = .subf f src dst ∧ val = (fun a b => b - a)) ∨
        (ins = .mulf f src dst ∧ val = (fun a b => b * a)) ∨ (ins = .divf f src dst ∧ val = (fun a b => b / a)) →
      FpClaimIf (fun a b v => ¬ Reserved f a ∧ ¬ Reserved f b ∧ val (fpNumber f a) (fpNumber f b) ≠ 0 ∧
          |val (fpNumber f a) (fpNumber f b)| < fpLeast f ∧ v.getLsbD 3 = false) ins f src dst
        (fun _ _ v r v' => r = 0 ∧ FsrUpdated v v' 1 true false)

/-- The exceptional conditions trap with their code in TT and deliver nothing (R257 to R264). A reserved operand is
invalid in ADDf, SUBf, MULf, DIVf, CMPf, NEGf, ABSf, MOVLF, MOVFL, ROUNDfi, TRUNCfi and FLOORfi, and so is 0/0; a number
divided by 0; an overflow, by rounding too, of the four operations and MOVLF, and of an integer result; an enabled
underflow of the four and MOVLF, tested before rounding (D17, log 16); an enabled inexact result of the four, MOVif,
MOVLF, ROUNDfi, TRUNCfi and FLOORfi. NEGf, ABSf and the conversions trap before dest is evaluated: R264 and R274 write
dest last, D8 puts operand accesses before result-time traps, and the model's choice is the former (log 14). -/
def Obligations.FloatTraps : Prop :=
  ∀ (f : FpLen) (i : IntLen) (src dst : Gen),
    (∀ (ins : Instr) (val : ℚ → ℚ → ℚ),
      (ins = .addf f src dst ∧ val = (fun a b => b + a)) ∨ (ins = .subf f src dst ∧ val = (fun a b => b - a)) ∨
        (ins = .mulf f src dst ∧ val = (fun a b => b * a)) ∨ (ins = .divf f src dst ∧ val = (fun a b => b / a)) →
      FpTrapClaim (fun a b _ => Reserved f a ∨ Reserved f b) ins f src dst 5 false false ∧
      FpTrapClaim (fun a b _ => ins = .divf f src dst ∧ ¬ Reserved f b ∧ ¬ Reserved f a ∧ fpNumber f a = 0 ∧
        fpNumber f b = 0) ins f src dst 5 false false ∧
      FpTrapClaim (fun a b _ => ins = .divf f src dst ∧ ¬ Reserved f b ∧ ¬ Reserved f a ∧ fpNumber f a = 0 ∧
        fpNumber f b ≠ 0) ins f src dst 3 false false ∧
      FpTrapClaim (fun a b v => ¬ Reserved f a ∧ ¬ Reserved f b ∧
        RoundsOut f (v.toNat / 128 % 4) (val (fpNumber f a) (fpNumber f b))) ins f src dst 2 false false ∧
      FpTrapClaim (fun a b v => ¬ Reserved f a ∧ ¬ Reserved f b ∧ v.getLsbD 3 = true ∧
        val (fpNumber f a) (fpNumber f b) ≠ 0 ∧
        |val (fpNumber f a) (fpNumber f b)| < fpLeast f) ins f src dst 1 true false ∧
      FpTrapClaim (fun a b v => ¬ Reserved f a ∧ ¬ Reserved f b ∧ v.getLsbD 5 = true ∧
        fpLeast f ≤ |val (fpNumber f a) (fpNumber f b)| ∧
        ¬ RoundsOut f (v.toNat / 128 % 4) (val (fpNumber f a) (fpNumber f b)) ∧
        ¬ ∃ p, p < 256 ^ f.bytes ∧ ¬ Reserved f p ∧ fpNumber f p = val (fpNumber f a) (fpNumber f b)) ins f src dst
        6 false true) ∧
    (∀ (s s1 s2 : State) (a b : Nat), s.cfgF = true → readOp .fp f.bytes s s src = .ok (a, s1) →
      readOp .fp f.bytes s s1 dst = .ok (b, s2) → Reserved f a ∨ Reserved f b →
      ∃ v : Dword, FsrUpdated s.fsr v 5 false false ∧
        exec (.cmpf f src dst) s = finish (({ s with fsr := v } : State).trap .fpu)) ∧
    (∀ ins ∈ [Instr.negf f src dst, .absf f src dst, .roundfi f i src dst, .truncfi f i src dst, .floorfi f i src dst],
      FpMoveTrapClaim (fun a _ => Reserved f a) ins .fp f.bytes src 5 false false) ∧
    FpMoveTrapClaim (fun a _ => Reserved .double a) (.movlf src dst) .fp 8 src 5 false false ∧
    FpMoveTrapClaim (fun a _ => Reserved .single a) (.movfl src dst) .fp 4 src 5 false false ∧
    FpMoveTrapClaim (fun a v => ¬ Reserved .double a ∧ RoundsOut .single (v.toNat / 128 % 4) (fpNumber .double a))
      (.movlf src dst) .fp 8 src 2 false false ∧
    FpMoveTrapClaim (fun a v => ¬ Reserved .double a ∧ v.getLsbD 3 = true ∧ fpNumber .double a ≠ 0 ∧
      |fpNumber .double a| < fpLeast .single) (.movlf src dst) .fp 8 src 1 true false ∧
    FpMoveTrapClaim (fun a v => ¬ Reserved .double a ∧ v.getLsbD 5 = true ∧ fpLeast .single ≤ |fpNumber .double a| ∧
      ¬ RoundsOut .single (v.toNat / 128 % 4) (fpNumber .double a) ∧
      ¬ ∃ p, p < 2 ^ 32 ∧ ¬ Reserved .single p ∧ fpNumber .single p = fpNumber .double a) (.movlf src dst) .fp 8 src
      6 false true ∧
    FpMoveTrapClaim (fun a v => v.getLsbD 5 = true ∧ ¬ ∃ p, p < 256 ^ f.bytes ∧ ¬ Reserved f p ∧
      fpNumber f p = signed i.bits a) (.movif i f src dst) .int i.bytes src 6 false true ∧
    ∀ (ins : Instr) (rnd : ℚ → Int → Prop),
      (ins = .roundfi f i src dst ∧ rnd = nearestInt) ∨
        (ins = .truncfi f i src dst ∧ rnd = (fun x n => n = truncated x)) ∨
        (ins = .floorfi f i src dst ∧ rnd = (fun x n => n = ⌊x⌋)) →
      FpMoveTrapClaim (fun a _ => ¬ Reserved f a ∧ ∃ n, rnd (fpNumber f a) n ∧ Overflows i.bits n) ins .fp f.bytes src
        2 false false ∧
      FpMoveTrapClaim (fun a v => ¬ Reserved f a ∧ v.getLsbD 5 = true ∧ (¬ ∃ n : Int, fpNumber f a = n) ∧
        ∃ n, rnd (fpNumber f a) n ∧ ¬ Overflows i.bits n) ins .fp f.bytes src 6 false true

/-- NEGf inverts and ABSf clears the sign of any number; MOVf copies any pattern, a reserved one too (R257, R274, R275,
R277). CMPf sets Z and N for numbers and clears L (R276). -/
def Obligations.FloatMovesCompare : Prop :=
  ∀ (f : FpLen) (src dst : Gen),
    FpMoveClaimIf (fun a _ => ¬ Reserved f a) (.negf f src dst) .fp .fp f.bytes f.bytes src dst (fun a v r v' =>
      (∀ k, r.testBit k = if k = fracBits f + expBits f then !a.testBit k else a.testBit k) ∧
      FsrUpdated v v' 0 false false) ∧
    FpMoveClaimIf (fun a _ => ¬ Reserved f a) (.absf f src dst) .fp .fp f.bytes f.bytes src dst (fun a v r v' =>
      (∀ k, r.testBit k = if k = fracBits f + expBits f then false else a.testBit k) ∧
      FsrUpdated v v' 0 false false) ∧
    FpMoveClaimIf (fun _ _ => True) (.movf f src dst) .fp .fp f.bytes f.bytes src dst (fun a v r v' =>
      r = a ∧ FsrUpdated v v' 0 false false) ∧
    (∀ (s s1 s2 : State) (a b : Nat), s.cfgF = true → readOp .fp f.bytes s s src = .ok (a, s1) →
      readOp .fp f.bytes s s1 dst = .ok (b, s2) → ¬ Reserved f a → ¬ Reserved f b →
      ∃ t, exec (.cmpf f src dst) s = .next t ∧ t.flag .z = decide (fpNumber f a = fpNumber f b) ∧
        t.flag .n = decide (fpNumber f b < fpNumber f a) ∧ t.flag .l = false ∧ FsrUpdated s.fsr t.fsr 0 false false ∧
        SameFlags [.z, .n, .l] s2 t ∧ SameRegs [] s2 t ∧ SameFpRegs [] s2 t ∧ SameMemory s2 t ∧ SameStack s2 t ∧
        SameBases s2 t ∧ SameSystem s2 t ∧ t.interlock = s2.interlock ∧ NextSequential (.cmpf f src dst) s t)

/-- MOVif rounds an integer by the mode in FSR; MOVLF rounds a long number, MOVFL is exact; ROUNDfi rounds to the
nearest integer, TRUNCfi toward zero, FLOORfi down, where the integer fits (R278 to R283; a negative zero through
MOVLF, log 19). -/
def Obligations.FloatConversions : Prop :=
  ∀ (f : FpLen) (i : IntLen) (src dst : Gen),
    FpMoveClaimIf (fun a v => signed i.bits a ≠ 0 ∧ (v.getLsbD 5 = false ∨ ∃ p, p < 256 ^ f.bytes ∧ ¬ Reserved f p ∧
        fpNumber f p = signed i.bits a)) (.movif i f src dst) .int .fp i.bytes f.bytes src dst
      (fun a v r v' => Rounds f (v.toNat / 128 % 4) (signed i.bits a) r ∧
        (fpNumber f r = signed i.bits a → FsrUpdated v v' 0 false false) ∧
        (fpNumber f r ≠ signed i.bits a → FsrUpdated v v' 6 false true)) ∧
    FpMoveClaimIf (fun a _ => signed i.bits a = 0) (.movif i f src dst) .int .fp i.bytes f.bytes src dst
      (fun _ v r v' => r = 0 ∧ FsrUpdated v v' 0 false false) ∧
    FpMoveClaimIf (fun a v => ¬ Reserved .double a ∧ fpLeast .single ≤ |fpNumber .double a| ∧
        ¬ RoundsOut .single (v.toNat / 128 % 4) (fpNumber .double a) ∧
        (v.getLsbD 5 = false ∨ ∃ p, p < 2 ^ 32 ∧ ¬ Reserved .single p ∧
          fpNumber .single p = fpNumber .double a)) (.movlf src dst) .fp .fp 8 4 src dst
      (fun a v r v' => Rounds .single (v.toNat / 128 % 4) (fpNumber .double a) r ∧
        (fpNumber .single r = fpNumber .double a → FsrUpdated v v' 0 false false) ∧
        (fpNumber .single r ≠ fpNumber .double a → FsrUpdated v v' 6 false true)) ∧
    FpMoveClaimIf (fun a _ => ¬ Reserved .double a ∧ fpNumber .double a = 0) (.movlf src dst) .fp .fp 8 4 src dst
      (fun _ v r v' => fpNumber .single r = 0 ∧ ¬ Reserved .single r ∧ FsrUpdated v v' 0 false false) ∧
    FpMoveClaimIf (fun a _ => ¬ Reserved .single a) (.movfl src dst) .fp .fp 4 8 src dst
      (fun a v r v' => ¬ Reserved .double r ∧ fpNumber .double r = fpNumber .single a ∧
        negative .double r = negative .single a ∧ FsrUpdated v v' 0 false false) ∧
    (∀ (ins : Instr) (rnd : ℚ → Int → Prop),
      (ins = .roundfi f i src dst ∧ rnd = nearestInt) ∨
        (ins = .truncfi f i src dst ∧ rnd = (fun x n => n = truncated x)) ∨
        (ins = .floorfi f i src dst ∧ rnd = (fun x n => n = ⌊x⌋)) →
      FpMoveClaimIf (fun a v => ¬ Reserved f a ∧ (∃ n, rnd (fpNumber f a) n ∧ ¬ Overflows i.bits n) ∧
          (v.getLsbD 5 = false ∨ ∃ n : Int, fpNumber f a = n)) ins .fp .int f.bytes i.bytes src dst
        (fun a v r v' => ∃ n : Int, rnd (fpNumber f a) n ∧ r = wrapped i.bits n ∧
          (fpNumber f a = n → FsrUpdated v v' 0 false false) ∧
          (fpNumber f a ≠ n → FsrUpdated v v' 6 false true)))

/-- LFSR loads the implemented bits of FSR and SFSR stores it; the two unassigned F-BE codes take Trap (FPU) with TT 4
(R261, R285, R286; log 5). -/
def Obligations.FloatStatus : Prop :=
  ∀ (g : Gen) (hi : BitVec 10) (lo : BitVec 2),
    (∀ (s s1 : State) (v : Nat), s.cfgF = true → readOp .int 4 s s g = .ok (v, s1) →
      ∃ t, exec (.lfsr g) s = .next t ∧ t.fsr.toNat = v % 65536 ∧ OnlyControl [] { s1 with fsr := t.fsr } t ∧
        NextSequential (.lfsr g) s t) ∧
    StoreClaim (.sfsr g) 4 g (fun s => s.cfgF = true) (fun s r => r = s.fsr.toNat) ∧
    (∀ (s : State), s.cfgF = true → s.mem.wf = true → ExceptionReady s s.psr 3 s.pc.toNat →
      ∃ v : Dword, FsrUpdated s.fsr v 4 false false ∧
        (∃ t, exec (.fpuIllegal0011 hi lo) s = .next t ∧ ExceptionTaken { s with fsr := v } s.psr 3 s.pc.toNat t ∧
          Cleared [.s, .u, .p, .t] s.psr t.psr) ∧
        (∃ t, exec (.fpuIllegal1001 hi lo) s = .next t ∧ ExceptionTaken { s with fsr := v } s.psr 3 s.pc.toNat t ∧
          Cleared [.s, .u, .p, .t] s.psr t.psr))
end

