-- ==== Sys2Proof/Laws/Decode.lean ====
section
/-! SUPPORT. Each part of the decoder undoes its part of the encoder. -/
namespace Sys2Proof

/-- A byte of a number. -/
theorem byteOf_toNat (n : Nat) : (byteOf n).toNat = n % 256 := by simp [byteOf]

/-! ## Parts -/

/-- A displacement in range decodes from its field (R140). -/
theorem readDisp_encode (d : Disp) (h : d.wf = true) (r : List Byte) :
    readDisp (encodeDisp d ++ r) = .ok (d, r) := by
  cases d with
  | d1 v =>
    have hv := v.isLt
    have h1 : (byteOf v.toNat).toNat = v.toNat := by rw [byteOf_toNat]; omega
    simp only [encodeDisp, List.cons_append, List.nil_append, readDisp, h1]
    rw [if_pos (by omega)]
    simp
  | d2 v =>
    have hv := v.isLt
    have h1 : (byteOf (128 + v.toNat / 256)).toNat = 128 + v.toNat / 256 := by rw [byteOf_toNat]; omega
    have h2 : (byteOf v.toNat).toNat = v.toNat % 256 := byteOf_toNat _
    simp only [encodeDisp, List.cons_append, List.nil_append, readDisp, h1, h2]
    rw [if_neg (by omega), if_pos (by omega)]
    have h3 : (128 + v.toNat / 256) % 64 * 256 + v.toNat % 256 = v.toNat := by omega
    rw [h3]; simp
  | d4 v =>
    have hv := v.isLt
    have h1 : (byteOf (192 + v.toNat / 16777216)).toNat = 192 + v.toNat / 16777216 := by rw [byteOf_toNat]; omega
    simp only [encodeDisp, List.cons_append, List.nil_append, readDisp, h1, byteOf_toNat]
    rw [if_neg (by omega), if_neg (by omega)]
    have h3 : (192 + v.toNat / 16777216) % 64 * 16777216 + v.toNat / 65536 % 256 * 65536
        + v.toNat / 256 % 256 * 256 + v.toNat % 256 = v.toNat := by omega
    rw [h3, BitVec.ofNat_toNat, BitVec.setWidth_eq, if_pos h]

/-- A big-endian value decodes from its bytes, after any accumulator (R141). -/
theorem readBig_encode (n acc v : Nat) (r : List Byte) :
    readBig n acc (encodeBig n v ++ r) = .ok (acc * 256 ^ n + v % 256 ^ n, r) := by
  induction n generalizing acc with
  | zero => simp [encodeBig, readBig, Nat.mod_one]
  | succ n ih =>
    have hp : 256 ^ (n + 1) = 256 ^ n * 256 := Nat.pow_succ ..
    have hm : v % 256 ^ (n + 1) = v % 256 ^ n + 256 ^ n * (v / 256 ^ n % 256) := by rw [hp, Nat.mod_mul]
    simp only [encodeBig, List.cons_append, readBig, ih, byteOf_toNat]
    rw [hm, hp]
    congr 2
    ring

/-- A mode decodes from its code and displacements (R139, R143). -/
theorem readMode_encode (m : Mode) (h : m.wf = true) (r : List Byte) :
    readMode (modeCode m) (encodeMode m ++ r) = .ok (m, r) := by
  cases m with
  | reg k => have := k.isLt; simp [readMode, modeCode, encodeMode]
  | tos => simp [readMode, modeCode, encodeMode]
  | regRel k d =>
    have hd : d.wf = true := h
    have h1 : readMode (modeCode (.regRel k d)) (encodeDisp d ++ r) = mode1 (.regRel k) (encodeDisp d ++ r) := by
      have h2 : ∀ k : Fin 8, Fin.ofNat 8 (8 + k.val) = k := by decide
      have hk := k.isLt
      show (if 8 + k.val < 8 then _ else if 8 + k.val < 16 then mode1 (.regRel (Fin.ofNat 8 (8 + k.val))) _ else _) = _
      rw [if_neg (by omega), if_pos (by omega), h2]
    rw [encodeMode, h1]
    simp [mode1, readDisp_encode d hd]
  | absolute d => have hd : d.wf = true := h; simp [readMode, modeCode, encodeMode, mode1, readDisp_encode d hd]
  | frame d => have hd : d.wf = true := h; simp [readMode, modeCode, encodeMode, mode1, readDisp_encode d hd]
  | stack d => have hd : d.wf = true := h; simp [readMode, modeCode, encodeMode, mode1, readDisp_encode d hd]
  | static d => have hd : d.wf = true := h; simp [readMode, modeCode, encodeMode, mode1, readDisp_encode d hd]
  | program d => have hd : d.wf = true := h; simp [readMode, modeCode, encodeMode, mode1, readDisp_encode d hd]
  | frameRel d e =>
    simp only [Mode.wf, Bool.and_eq_true] at h
    simp [readMode, modeCode, encodeMode, mode2, mode1, readDisp_encode d h.1, readDisp_encode e h.2]
  | stackRel d e =>
    simp only [Mode.wf, Bool.and_eq_true] at h
    simp [readMode, modeCode, encodeMode, mode2, mode1, readDisp_encode d h.1, readDisp_encode e h.2]
  | staticRel d e =>
    simp only [Mode.wf, Bool.and_eq_true] at h
    simp [readMode, modeCode, encodeMode, mode2, mode1, readDisp_encode d h.1, readDisp_encode e h.2]
  | ext d e =>
    simp only [Mode.wf, Bool.and_eq_true] at h
    simp [readMode, modeCode, encodeMode, mode2, mode1, readDisp_encode d h.1, readDisp_encode e h.2]

/-- The codes of modes. -/
theorem modeCode_lt (m : Mode) : modeCode m < 28 ∧ modeCode m ≠ 20 := by
  cases m with
  | reg k => have := k.isLt; simp only [modeCode]; omega
  | regRel k d => have := k.isLt; simp only [modeCode]; omega
  | _ => simp [modeCode]

/-- The codes of operands. -/
theorem genCode_lt (g : Gen) : genCode g < 32 := by
  cases g with
  | mode m => have := modeCode_lt m; simp only [genCode]; omega
  | scaled sc m x => cases sc <;> simp [genCode, scaleCode]
  | imm v => simp [genCode]

/-- The index byte and code of an operand as the decoder reads them. -/
def headOf : Gen → GenHead
  | .mode m => .plain (modeCode m)
  | .scaled sc m x => .indexed sc (modeCode m) x
  | .imm _ => .plain 20

/-- A gen field and its index byte decode (R138). -/
theorem readHead_encode (g : Gen) (r : List Byte) :
    readHead (genCode g) (genIndex g ++ r) = .ok (headOf g, r) := by
  cases g with
  | mode m => have := modeCode_lt m; simp [readHead, genCode, genIndex, headOf, this.1]
  | imm v => simp [readHead, genCode, genIndex, headOf]
  | scaled sc m x =>
    have hm := modeCode_lt m
    have hx := x.isLt
    have h1 : (8 * modeCode m + x.val) % 256 / 8 = modeCode m := by omega
    have h2 : Fin.ofNat 8 ((8 * modeCode m + x.val) % 256) = x := by
      apply Fin.ext; simp only [Fin.ofNat]; omega
    have h3 : readHead (genCode (.scaled sc m x)) (genIndex (.scaled sc m x) ++ r)
        = .ok (.indexed (scaleOfCode (28 + scaleCode sc)) ((byteOf (8 * modeCode m + x.val)).toNat / 8)
            (Fin.ofNat 8 (byteOf (8 * modeCode m + x.val)).toNat), r) := by
      cases sc <;> rfl
    rw [h3, byteOf_toNat, h1, h2]
    cases sc <;> rfl

/-- What the decoder needs of an operand: an immediate stands only where it is legal, and fits (R141, R148). -/
def Gen.fit (imm : Option Nat) (g : Gen) : Prop :=
  match imm with
  | some n => g.wfRead n = true
  | none => g.wfLoc = true

/-- The number of immediate bytes the encoder writes where the decoder allows `imm`. -/
def immBytes : Option Nat → Nat
  | some n => n
  | none => 0

/-- An operand decodes from its head and extension (R139). -/
theorem readGen_encode (g : Gen) (imm : Option Nat) (h : g.fit imm) (r : List Byte) :
    readGen (headOf g) imm (genExt (immBytes imm) g ++ r) = .ok (g, r) := by
  cases g with
  | mode m =>
    have hm := modeCode_lt m
    have hw : m.wf = true := by cases imm <;> exact h
    simp [readGen, headOf, genExt, hm.2, readMode_encode m hw]
  | scaled sc m x =>
    have hw : m.wf = true := by cases imm <;> exact h
    simp [readGen, headOf, genExt, readMode_encode m hw]
  | imm v =>
    cases imm with
    | none => exact absurd h (by simp [Gen.fit, Gen.wfLoc])
    | some n =>
      have hv : v.toNat < 256 ^ n := by simpa [Gen.fit, Gen.wfRead] using h
      simp [readGen, headOf, genExt, immBytes, readBig_encode, Nat.mod_eq_of_lt hv]

/-- One operand decodes (R130). -/
theorem gen1_encode {g : Gen} {imm : Option Nat} (h : g.fit imm) (r : List Byte) (k : Gen → List Byte → Decoded) :
    gen1 (genCode g) imm (tail1 (immBytes imm) g ++ r) k = k g r := by
  simp only [gen1, tail1, List.append_assoc, readHead_encode, readGen_encode g imm h]

/-- Two operands decode (R130). -/
theorem gen2_encode {a b : Gen} {ia ib : Option Nat} (ha : a.fit ia) (hb : b.fit ib) (r : List Byte)
    (k : Gen → Gen → List Byte → Decoded) :
    gen2 (genCode a) (genCode b) ia ib (tail2 (immBytes ia) (immBytes ib) a b ++ r) k = k a b r := by
  simp only [gen2, tail2, List.append_assoc, readHead_encode, readGen_encode a ia ha, readGen_encode b ib hb]

/-- A trailing displacement decodes. -/
theorem tailDisp_encode (mk : Disp → Instr) {d : Disp} (h : d.wf = true) (r : List Byte) :
    tailDisp mk (encodeDisp d ++ r) = .ok (mk d, r) := by
  simp only [tailDisp, readDisp_encode d h]

/-! ## What the parts accept: nothing but what the encoder writes -/

/-- The low byte of a number that ends in a byte. -/
theorem byteOf_low (k : Nat) (b : Byte) : byteOf (256 * k + b.toNat) = b := by
  apply BitVec.eq_of_toNat_eq
  have := b.isLt
  rw [byteOf_toNat]; omega

/-- A byte is that of any number equal to it modulo 256. -/
theorem byteOf_eq {n : Nat} {b : Byte} (h : n % 256 = b.toNat) : byteOf n = b := by
  apply BitVec.eq_of_toNat_eq
  rw [byteOf_toNat, h]

/-- A displacement read stands there as its encoding, in range (R140, U4). -/
theorem readDisp_inv {bytes r : List Byte} {d : Disp} (h : readDisp bytes = .ok (d, r)) :
    d.wf = true ∧ bytes = encodeDisp d ++ r := by
  rcases bytes with _ | ⟨b0, q⟩
  · cases h
  · have h0 := b0.isLt
    simp only [readDisp] at h
    split at h
    · cases h
      refine ⟨?_, ?_⟩
      · generalize BitVec.ofNat 7 b0.toNat = v
        revert v; decide
      · have e : byteOf (BitVec.ofNat 7 b0.toNat).toNat = b0 := byteOf_eq (by simp only [BitVec.toNat_ofNat]; omega)
        simp only [encodeDisp, e, List.cons_append, List.nil_append]
    · split at h
      · rcases q with _ | ⟨b1, q⟩
        · cases h
        · have h1 := b1.isLt
          cases h
          refine ⟨?_, ?_⟩
          · generalize BitVec.ofNat 14 (b0.toNat % 64 * 256 + b1.toNat) = v
            have := v.toInt_lt; have := v.le_toInt
            exact Bool.and_eq_true _ _ ▸ ⟨decide_eq_true (by show _ ≤ v.toInt; omega),
              decide_eq_true (by show v.toInt ≤ _; omega)⟩
          · have e : (BitVec.ofNat 14 (b0.toNat % 64 * 256 + b1.toNat)).toNat = b0.toNat % 64 * 256 + b1.toNat := by
              simp only [BitVec.toNat_ofNat]; omega
            simp only [encodeDisp, e, List.cons_append, List.nil_append]
            rw [byteOf_eq (b := b0) (by omega), byteOf_eq (b := b1) (by omega)]
      · rcases q with _ | ⟨b1, _ | ⟨b2, _ | ⟨b3, q⟩⟩⟩
        iterate 3 cases h
        have h1 := b1.isLt
        have h2 := b2.isLt
        have h3 := b3.isLt
        dsimp only at h
        split at h
        · rename_i hw
          cases h
          refine ⟨hw, ?_⟩
          have e : (BitVec.ofNat 30 (b0.toNat % 64 * 16777216 + b1.toNat * 65536 + b2.toNat * 256 + b3.toNat)).toNat
              = b0.toNat % 64 * 16777216 + b1.toNat * 65536 + b2.toNat * 256 + b3.toNat := by
            simp only [BitVec.toNat_ofNat]; omega
          simp only [encodeDisp, e, List.cons_append, List.nil_append]
          rw [byteOf_eq (b := b0) (by omega), byteOf_eq (b := b1) (by omega), byteOf_eq (b := b2) (by omega),
            byteOf_eq (b := b3) (by omega)]
        · cases h

/-- The bytes of a number depend on its low bytes alone. -/
theorem encodeBig_mod (n k v : Nat) : encodeBig n (k * 256 ^ n + v) = encodeBig n v := by
  induction n generalizing k v with
  | zero => rfl
  | succ n ih =>
    have e : k * 256 ^ (n + 1) + v = k * 256 * 256 ^ n + v := by rw [pow_succ]; ring
    have hp : 0 < 256 ^ n := by positivity
    rw [e, encodeBig, encodeBig, ih]
    congr 1
    apply BitVec.eq_of_toNat_eq
    rw [byteOf_toNat, byteOf_toNat, Nat.add_comm, Nat.add_mul_div_right _ _ hp]
    omega

/-- A value read stands there as its bytes (R141). -/
theorem readBig_inv {n acc v : Nat} {bytes r : List Byte} (h : readBig n acc bytes = .ok (v, r)) :
    ∃ w, w < 256 ^ n ∧ v = acc * 256 ^ n + w ∧ bytes = encodeBig n w ++ r := by
  induction n generalizing acc bytes with
  | zero =>
    cases h
    exact ⟨0, by simp, by simp, rfl⟩
  | succ n ih =>
    rcases bytes with _ | ⟨b, q⟩
    · cases h
    · obtain ⟨w, hw, hv, hq⟩ := ih h
      have hb := b.isLt
      have hp : 0 < 256 ^ n := by positivity
      refine ⟨b.toNat * 256 ^ n + w, ?_, ?_, ?_⟩
      · rw [pow_succ]; nlinarith
      · rw [hv, pow_succ]; ring
      · rw [encodeBig, encodeBig_mod, hq, List.cons_append]
        congr 1
        symm
        apply byteOf_eq
        rw [Nat.add_comm, Nat.add_mul_div_right _ _ hp, Nat.div_eq_of_lt hw]
        omega

/-- What a mode of one displacement accepts. -/
theorem mode1_inv {mk : Disp → Mode} {bytes r : List Byte} {m : Mode} (h : mode1 mk bytes = .ok (m, r)) :
    ∃ d, m = mk d ∧ d.wf = true ∧ bytes = encodeDisp d ++ r := by
  unfold mode1 at h
  split at h
  · rename_i d q hd
    cases h
    exact ⟨d, rfl, readDisp_inv hd⟩
  · cases h

/-- What a mode of two displacements accepts. -/
theorem mode2_inv {mk : Disp → Disp → Mode} {bytes r : List Byte} {m : Mode} (h : mode2 mk bytes = .ok (m, r)) :
    ∃ d e, m = mk d e ∧ d.wf = true ∧ e.wf = true ∧ bytes = encodeDisp d ++ encodeDisp e ++ r := by
  unfold mode2 at h
  split at h
  · rename_i d q hd
    obtain ⟨hw, rfl⟩ := readDisp_inv hd
    obtain ⟨e, rfl, he, rfl⟩ := mode1_inv h
    exact ⟨d, e, rfl, hw, he, by simp⟩
  · cases h

/-- A mode read stands there as its code and displacements (R139, R143). -/
theorem readMode_inv {c : Nat} {bytes r : List Byte} {m : Mode} (h : readMode c bytes = .ok (m, r)) :
    m.wf = true ∧ modeCode m = c ∧ bytes = encodeMode m ++ r := by
  unfold readMode at h
  split at h
  · rename_i hc
    cases h
    exact ⟨rfl, Nat.mod_eq_of_lt hc, rfl⟩
  · split at h
    · rename_i h1 h2
      obtain ⟨d, rfl, hd, rfl⟩ := mode1_inv h
      refine ⟨hd, ?_, rfl⟩
      simp only [modeCode, Fin.ofNat]; omega
    · split at h
      all_goals first
        | (obtain ⟨d, e, rfl, hd, he, rfl⟩ := mode2_inv h; exact ⟨by simp [Mode.wf, hd, he], rfl, rfl⟩)
        | (obtain ⟨d, rfl, hd, rfl⟩ := mode1_inv h; exact ⟨hd, rfl, rfl⟩)
        | (cases h; exact ⟨rfl, rfl, rfl⟩)
        | cases h

/-- An operand read stands there as its code, index byte and extension, an immediate only where it is legal (R130, R138
to R143, U6 to U8). -/
theorem readGen_inv {c : Nat} {imm : Option Nat} {b r1 b2 r : List Byte} {hd : GenHead} {g : Gen} (hc : c < 32)
    (hi : immBytes imm ≤ 8) (h1 : readHead c b = .ok (hd, r1)) (h2 : readGen hd imm b2 = .ok (g, r)) :
    genCode g = c ∧ g.fit imm ∧ b = genIndex g ++ r1 ∧ b2 = genExt (immBytes imm) g ++ r := by
  unfold readHead at h1
  split at h1
  · cases h1
    dsimp only [readGen] at h2
    split at h2
    · rename_i e
      subst e
      split at h2
      · rename_i n
        split at h2
        · rename_i v q hb
          cases h2
          obtain ⟨w, hw, hv, rfl⟩ := readBig_inv hb
          have hp : 256 ^ n ≤ 256 ^ 8 := Nat.pow_le_pow_right (by norm_num) hi
          have e : (BitVec.ofNat 64 v).toNat = w := by
            simp only [BitVec.toNat_ofNat]; omega
          exact ⟨rfl, by simp [Gen.fit, Gen.wfRead, e, hw], rfl, by simp only [genExt, immBytes, e]⟩
        · cases h2
      · cases h2
    · split at h2
      · rename_i m q hm
        cases h2
        obtain ⟨hw, hcode, rfl⟩ := readMode_inv hm
        exact ⟨hcode, by cases imm <;> exact hw, rfl, rfl⟩
      · cases h2
  · split at h1
    · rename_i hlt x q
      cases h1
      dsimp only [readGen] at h2
      split at h2
      · rename_i m q' hm
        cases h2
        obtain ⟨hw, hcode, rfl⟩ := readMode_inv hm
        refine ⟨?_, by cases imm <;> exact hw, ?_, rfl⟩
        · rcases (by omega : c = 28 ∨ c = 29 ∨ c = 30 ∨ c = 31) with rfl | rfl | rfl | rfl <;> rfl
        · have hx := x.isLt
          have e : byteOf (8 * modeCode m + (Fin.ofNat 8 x.toNat).val) = x :=
            byteOf_eq (by simp only [Fin.ofNat]; omega)
          simp only [genIndex, e, List.cons_append, List.nil_append]
      · cases h2
    · cases h1

/-- What the decoder of one operand accepts (R130). -/
theorem gen1_inv {c : Nat} {imm : Option Nat} {bytes : List Byte} {k : Gen → List Byte → Decoded}
    {x : Instr × List Byte} (hc : c < 32) (hi : immBytes imm ≤ 8) (h : gen1 c imm bytes k = .ok x) :
    ∃ g r, genCode g = c ∧ g.fit imm ∧ bytes = tail1 (immBytes imm) g ++ r ∧ k g r = .ok x := by
  unfold gen1 at h
  split at h
  · rename_i hd r1 h1
    split at h
    · rename_i g r2 h2
      obtain ⟨hcode, hfit, rfl, rfl⟩ := readGen_inv hc hi h1 h2
      exact ⟨g, r2, hcode, hfit, by simp [tail1], h⟩
    · cases h
  · cases h

/-- What the decoder of two operands accepts (R130). -/
theorem gen2_inv {ca cb : Nat} {ia ib : Option Nat} {bytes : List Byte} {k : Gen → Gen → List Byte → Decoded}
    {x : Instr × List Byte} (hca : ca < 32) (hcb : cb < 32) (hia : immBytes ia ≤ 8) (hib : immBytes ib ≤ 8)
    (h : gen2 ca cb ia ib bytes k = .ok x) :
    ∃ a b r, genCode a = ca ∧ genCode b = cb ∧ a.fit ia ∧ b.fit ib ∧
      bytes = tail2 (immBytes ia) (immBytes ib) a b ++ r ∧ k a b r = .ok x := by
  unfold gen2 at h
  split at h
  · rename_i ha r1 h1
    split at h
    · rename_i hb r2 h2
      split at h
      · rename_i a r3 h3
        split at h
        · rename_i b r4 h4
          obtain ⟨ea, fa, rfl, rfl⟩ := readGen_inv hca hia h1 h3
          obtain ⟨eb, fb, rfl, e⟩ := readGen_inv hcb hib h2 h4
          exact ⟨a, b, r4, ea, eb, fa, fb, by rw [e]; simp [tail2], h⟩
        · cases h
      · cases h
    · cases h
  · cases h

/-- What a trailing displacement accepts. -/
theorem tailDisp_inv {mk : Disp → Instr} {bytes r : List Byte} {i : Instr} (h : tailDisp mk bytes = .ok (i, r)) :
    ∃ d, i = mk d ∧ d.wf = true ∧ bytes = encodeDisp d ++ r := by
  unfold tailDisp at h
  split at h
  · rename_i d q hd
    cases h
    exact ⟨d, rfl, readDisp_inv hd⟩
  · cases h

/-! ## Basic instructions -/

/-- A two-byte basic instruction of format F-GG. -/
theorem decode_basic2_gg {w : Nat} (hw : w < 65536) (h2 : w % 4 ≠ 2) (h3 : w / 4 % 4 ≠ 3) (r : List Byte) :
    decode (basic2 w ++ r) = decodeGG (w / 4 % 16) (w % 4) (w / 2048 % 32) (w / 64 % 32) r := by
  have e : w % 256 + 256 * (w / 256 % 256) = w := by omega
  simp only [basic2, List.cons_append, List.nil_append, decode, byteOf_toNat]
  rw [if_neg (by omega), if_neg (by omega), e]

/-- A two-byte basic instruction of formats F-GQ and F-G. -/
theorem decode_basic2_gq {w : Nat} (hw : w < 65536) (h2 : w % 4 ≠ 2) (h3 : w / 4 % 4 = 3) (r : List Byte) :
    decode (basic2 w ++ r) = decodeGQ (w / 16 % 8) (w % 4) (w / 128 % 16) (w / 2048 % 32) r := by
  have e : w % 256 + 256 * (w / 256 % 256) = w := by omega
  simp only [basic2, List.cons_append, List.nil_append, decode, byteOf_toNat]
  rw [if_neg (by omega), if_pos (by omega), e]

/-- A three-byte basic instruction. -/
theorem decode_basic3 {w : Nat} (hw : w < 16777216) (h : w % 16 = 14) (ha : assigned3 (w % 256 / 16) = true)
    (r : List Byte) : decode (basic3 w ++ r) = decode3 (w % 256 / 16) w r := by
  have e : w % 256 + 256 * (w / 256 % 256) + 65536 * (w / 65536 % 256) = w := by omega
  have h3 : w % 256 / 4 % 4 = 3 := by omega
  simp only [basic3, List.cons_append, List.nil_append, decode, byteOf_toNat]
  rw [if_pos (by omega), h3]
  simp only [e, ha, if_true]

/-! ## Formats: decoding an encoded instruction reaches its decoder with its fields -/

/-- Format F-GG. -/
theorem decode_encodeGG (op : Nat) (i : IntLen) (na nb : Nat) (a b : Gen) (rest : List Byte) (ho : op < 16) (h : op
    % 4 ≠ 3) :
    decode (encodeGG op i na nb a b ++ rest) = decodeGG op (lenCode i) (genCode a) (genCode b) (tail2 na nb a b ++
        rest) := by
  have ha := genCode_lt a
  have hb := genCode_lt b
  have hi : lenCode i < 4 ∧ lenCode i ≠ 2 := by cases i <;> decide
  rw [encodeGG, List.append_assoc, decode_basic2_gg (by omega) (by omega) (by omega)]
  congr 1 <;> omega

/-- Format F-GQ. -/
theorem decode_encodeGQ (op q : Nat) (i : IntLen) (n : Nat) (g : Gen) (rest : List Byte) (ho : op < 8) (hq : q < 16) :
    decode (encodeGQ op q i n g ++ rest) = decodeGQ op (lenCode i) q (genCode g) (tail1 n g ++ rest) := by
  have ha := genCode_lt g
  have hi : lenCode i < 4 ∧ lenCode i ≠ 2 := by cases i <;> decide
  rw [encodeGQ, List.append_assoc, decode_basic2_gq (by omega) (by omega) (by omega)]
  congr 1 <;> omega

/-- Format F-4E. -/
theorem decode_encode4E (op ic na nb : Nat) (a b : Gen) (rest : List Byte) (ho : op < 16) (hi : ic < 4) :
    ∃ w, decode (encode4E 0x4E op ic na nb a b ++ rest) = decode4E w (tail2 na nb a b ++ rest) ∧ w / 256 % 4 = ic ∧
        w / 1024 % 16 = op ∧ w / 16384 % 32 = genCode b ∧ w / 524288 % 32 = genCode a := by
  have ha := genCode_lt a
  have hb := genCode_lt b
  refine ⟨0x4E + 256 * ic + 1024 * op + 16384 * genCode b + 524288 * genCode a, ?_, by omega, by omega, by omega,
      by omega⟩
  have e : (0x4E + 256 * ic + 1024 * op + 16384 * genCode b + 524288 * genCode a) % 256 / 16 = 4 := by omega
  rw [encode4E, List.append_assoc, decode_basic3 (by omega) (by omega) (by rw [e]; rfl), e]; rfl

/-- Format F-CE. -/
theorem decode_encodeCE (op ic na nb : Nat) (a b : Gen) (rest : List Byte) (ho : op < 16) (hi : ic < 4) :
    ∃ w, decode (encode4E 0xCE op ic na nb a b ++ rest) = decodeCE w (tail2 na nb a b ++ rest) ∧ w / 256 % 4 = ic ∧
        w / 1024 % 16 = op ∧ w / 16384 % 32 = genCode b ∧ w / 524288 % 32 = genCode a := by
  have ha := genCode_lt a
  have hb := genCode_lt b
  refine ⟨0xCE + 256 * ic + 1024 * op + 16384 * genCode b + 524288 * genCode a, ?_, by omega, by omega, by omega,
      by omega⟩
  have e : (0xCE + 256 * ic + 1024 * op + 16384 * genCode b + 524288 * genCode a) % 256 / 16 = 12 := by omega
  rw [encode4E, List.append_assoc, decode_basic3 (by omega) (by omega) (by rw [e]; rfl), e]; rfl

/-- The 2E group. -/
theorem decode_encode2E (fb op2 b10 reg ic na nb : Nat) (a b : Gen) (rest : List Byte) (hf : fb = 0x2E + 64 * op2)
    (h2 : op2 < 4) (ho : b10 < 2) (hr : reg < 8) (hi : ic < 4) :
    ∃ w, decode (encode2E fb b10 reg ic na nb a b ++ rest) = decode2E op2 w (tail2 na nb a b ++ rest) ∧ w / 256 % 4
        = ic ∧ w / 1024 % 2 = b10 ∧ w / 2048 % 8 = reg ∧ w / 16384 % 32 = genCode b ∧ w / 524288 % 32 = genCode a
            := by
  have ha := genCode_lt a
  have hb := genCode_lt b
  subst hf
  refine ⟨0x2E + 64 * op2 + 256 * ic + 1024 * b10 + 2048 * reg + 16384 * genCode b + 524288 * genCode a, ?_, by
      omega, by omega, by omega, by omega, by omega⟩
  have e : (0x2E + 64 * op2 + 256 * ic + 1024 * b10 + 2048 * reg + 16384 * genCode b + 524288 * genCode a) % 256 /
      16 = 2 + 4 * op2 := by omega
  have ea : assigned3 (2 + 4 * op2) = true := by clear e; interval_cases op2 <;> rfl
  rw [encode2E, List.append_assoc, decode_basic3 (by omega) (by omega) (by rw [e]; exact ea), e]
  interval_cases op2 <;> rfl

/-- Format F-0E. -/
theorem decode_encode0E (op ic short : Nat) (rest : List Byte) (ho : op < 16) (hi : ic < 4) (hs : short < 16) :
    ∃ w, decode (encode0E op ic short ++ rest) = decode0E w rest ∧ w / 256 % 4 = ic ∧ w / 1024 % 16 = op ∧
      w / 32768 % 16 = short ∧ w / 16384 % 2 = 0 ∧ w / 524288 % 32 = 0 := by
  refine ⟨0x0E + 256 * ic + 1024 * op + 32768 * short, ?_, by omega, by omega, by omega, by omega, by omega⟩
  have e : (0x0E + 256 * ic + 1024 * op + 32768 * short) % 256 / 16 = 0 := by omega
  rw [encode0E, decode_basic3 (by omega) (by omega) (by rw [e]; rfl), e]; rfl

/-- Format F-1E. -/
theorem decode_encode1E (op short n : Nat) (g : Gen) (rest : List Byte) (ho : op < 16) (hs : short < 16) :
    ∃ w, decode (encode1E op short g n ++ rest) = decode1E w (tail1 n g ++ rest) ∧ w / 256 % 4 = 3 ∧
      w / 1024 % 16 = op ∧ w / 32768 % 16 = short ∧ w / 16384 % 2 = 0 ∧ w / 524288 % 32 = genCode g := by
  have ha := genCode_lt g
  refine ⟨0x1E + 768 + 1024 * op + 32768 * short + 524288 * genCode g, ?_, by omega, by omega, by omega, by omega,
      by omega⟩
  have e : (0x1E + 768 + 1024 * op + 32768 * short + 524288 * genCode g) % 256 / 16 = 1 := by omega
  rw [encode1E, List.append_assoc, decode_basic3 (by omega) (by omega) (by rw [e]; rfl), e]; rfl

/-- Format F-3E. -/
theorem decode_encode3E (op fc ic na nb : Nat) (a b : Gen) (rest : List Byte) (ho : op < 8) (hf : fc < 2)
    (hi : ic < 4) :
    ∃ w, decode (encode3E op fc ic na nb a b ++ rest) = decode3E w (tail2 na nb a b ++ rest) ∧ w / 256 % 4 = ic ∧
      w / 1024 % 2 = fc ∧ w / 2048 % 8 = op ∧ w / 16384 % 32 = genCode b ∧ w / 524288 % 32 = genCode a := by
  have ha := genCode_lt a
  have hb := genCode_lt b
  refine ⟨0x3E + 256 * ic + 1024 * fc + 2048 * op + 16384 * genCode b + 524288 * genCode a, ?_, by omega, by omega,
      by omega, by omega, by omega⟩
  have e : (0x3E + 256 * ic + 1024 * fc + 2048 * op + 16384 * genCode b + 524288 * genCode a) % 256 / 16 = 3 := by
      omega
  rw [encode3E, List.append_assoc, decode_basic3 (by omega) (by omega) (by rw [e]; rfl), e]; rfl

/-- Format F-BE. -/
theorem decode_encodeBE (op : Nat) (f : FpLen) (a b : Gen) (rest : List Byte) (ho : op < 16) :
    ∃ w, decode (encodeBE op f a b ++ rest) = decodeBE w (tail2 f.bytes f.bytes a b ++ rest) ∧ w / 256 % 2 = fpCode f ∧
      w / 512 % 2 = 0 ∧ w / 1024 % 16 = op ∧ w / 16384 % 32 = genCode b ∧ w / 524288 % 32 = genCode a := by
  have ha := genCode_lt a
  have hb := genCode_lt b
  have hf : fpCode f < 2 := by cases f <;> decide
  refine ⟨0xBE + 256 * fpCode f + 1024 * op + 16384 * genCode b + 524288 * genCode a, ?_, by omega, by omega, by
      omega, by omega, by omega⟩
  have e : (0xBE + 256 * fpCode f + 1024 * op + 16384 * genCode b + 524288 * genCode a) % 256 / 16 = 11 := by omega
  rw [encodeBE, List.append_assoc, decode_basic3 (by omega) (by omega) (by rw [e]; rfl), e]; rfl

/-- An operand that is not read has no immediate, so its length does not matter. -/
theorem genExt_of_wfLoc (n : Nat) (g : Gen) (h : g.wfLoc = true) : genExt n g = genExt 0 g := by
  cases g <;> simp_all [genExt, Gen.wfLoc]

/-- The extension of one operand that is not read. -/
theorem tail1_of_wfLoc {n : Nat} {g : Gen} (h : g.wfLoc = true) : tail1 n g = tail1 0 g := by
  simp [tail1, genExt_of_wfLoc n g h]

/-- The extensions of two operands of which the second is not read. -/
theorem tail2_of_wfLoc {m n : Nat} {a b : Gen} (h : b.wfLoc = true) : tail2 m n a b = tail2 m 0 a b := by
  simp [tail2, genExt_of_wfLoc n b h]

end Sys2Proof
end

