-- ==== Sys2Proof/Laws/Memory.lean ====
section
/-! SUPPORT. The laws of memory: what a read gives after a write, and that every write keeps the canonical form. -/
namespace Sys2Proof.Machine

/-! ## Reads and writes of one byte -/

/-- Memory listed from `lo` up reads as unlisted below `lo`. -/
theorem Memory.read_below {m : Memory} {lo x : Nat} (h : Memory.wfFrom lo m = true) (hx : x < lo) :
    Memory.read m x = Config.unlistedByte := by
  induction m generalizing lo with
  | nil => rfl
  | cons c m ih =>
    obtain ⟨a, b⟩ := c
    simp only [Memory.wfFrom, Bool.and_eq_true, decide_eq_true_eq] at h
    obtain ⟨⟨⟨h1, -⟩, -⟩, h4⟩ := h
    have hne : x ≠ a := by omega
    rw [Memory.read, if_neg hne]
    exact ih h4 (by omega)

/-- A byte reads as last written, in canonical memory. -/
theorem Memory.read_write_same {m : Memory} {lo : Nat} (h : Memory.wfFrom lo m = true) (x : Nat) (v : Byte) :
    Memory.read (Memory.write m x v) x = v := by
  induction m generalizing lo with
  | nil => by_cases hv : v = Config.unlistedByte <;> simp [Memory.write, Memory.read, hv]
  | cons c m ih =>
    obtain ⟨a, b⟩ := c
    simp only [Memory.wfFrom, Bool.and_eq_true, decide_eq_true_eq] at h
    obtain ⟨-, h4⟩ := h
    by_cases h1 : x < a
    · by_cases hv : v = Config.unlistedByte
      · have : x ≠ a := by omega
        simp [Memory.write, h1, hv, Memory.read, this, Memory.read_below h4 (by omega : x < a + 1)]
      · simp [Memory.write, h1, hv, Memory.read]
    · by_cases h2 : x = a
      · subst h2
        by_cases hv : v = Config.unlistedByte
        · simp [Memory.write, hv, Memory.read_below h4 (by omega : x < x + 1)]
        · simp [Memory.write, hv, Memory.read]
      · simp [Memory.write, h1, h2, Memory.read, ih h4]

/-- A write leaves every other byte alone. -/
theorem Memory.read_write_other {m : Memory} {lo : Nat} (h : Memory.wfFrom lo m = true) {x y : Nat} (hy : y ≠ x)
    (v : Byte) : Memory.read (Memory.write m x v) y = Memory.read m y := by
  induction m generalizing lo with
  | nil => by_cases hv : v = Config.unlistedByte <;> simp [Memory.write, Memory.read, hv, hy]
  | cons c m ih =>
    obtain ⟨a, b⟩ := c
    simp only [Memory.wfFrom, Bool.and_eq_true, decide_eq_true_eq] at h
    obtain ⟨-, h4⟩ := h
    by_cases h1 : x < a
    · by_cases hv : v = Config.unlistedByte <;> simp [Memory.write, h1, hv, Memory.read, hy]
    · by_cases h2 : x = a
      · subst h2
        by_cases hv : v = Config.unlistedByte <;> simp [Memory.write, hv, Memory.read, hy]
      · by_cases h3 : y = a
        · simp [Memory.write, h1, h2, Memory.read, h3]
        · simp [Memory.write, h1, h2, Memory.read, h3, ih h4]

/-- A write inside the space keeps the canonical form. -/
theorem Memory.wfFrom_write {m : Memory} {lo x : Nat} (h : Memory.wfFrom lo m = true) (hlo : lo ≤ x)
    (hx : x < Config.memSize) (v : Byte) : Memory.wfFrom lo (Memory.write m x v) = true := by
  induction m generalizing lo with
  | nil => by_cases hv : v = Config.unlistedByte <;> simp [Memory.write, Memory.wfFrom, hv, hlo, hx]
  | cons c m ih =>
    obtain ⟨a, b⟩ := c
    simp only [Memory.wfFrom, Bool.and_eq_true, decide_eq_true_eq] at h
    obtain ⟨⟨⟨h1, h2⟩, h3⟩, h4⟩ := h
    have weaken : ∀ {p q : Nat} {m : Memory}, p ≤ q → Memory.wfFrom q m = true → Memory.wfFrom p m = true := by
      intro p q m hpq hm
      cases m with
      | nil => rfl
      | cons c m =>
        obtain ⟨a, b⟩ := c
        simp only [Memory.wfFrom, Bool.and_eq_true, decide_eq_true_eq] at hm ⊢
        exact ⟨⟨⟨by omega, hm.1.1.2⟩, hm.1.2⟩, hm.2⟩
    by_cases ha : x < a
    · by_cases hv : v = Config.unlistedByte
      · simp [Memory.write, ha, hv, Memory.wfFrom, h1, h2, h3, h4]
      · rw [Memory.write, if_pos ha, if_neg hv]
        simp only [Memory.wfFrom, Bool.and_eq_true, decide_eq_true_eq]
        exact ⟨⟨⟨hlo, hx⟩, hv⟩, ⟨⟨by omega, h2⟩, h3⟩, h4⟩
    · by_cases hb : x = a
      · subst hb
        by_cases hv : v = Config.unlistedByte
        · simp [Memory.write, hv, weaken (by omega : lo ≤ x + 1) h4]
        · simp [Memory.write, hv, Memory.wfFrom, h1, h2, h4]
      · simp [Memory.write, ha, hb, Memory.wfFrom, h1, h2, h3, ih h4 (by omega)]

/-- A write inside the space keeps memory canonical. -/
theorem Memory.wf_write {m : Memory} {x : Nat} (h : m.wf = true) (hx : x < Config.memSize) (v : Byte) :
    (Memory.write m x v).wf = true := Memory.wfFrom_write h (Nat.zero_le _) hx v

/-- Equal canonical memories read alike and memories that read alike are equal. -/
theorem Memory.ext_read {m n : Memory} {lo : Nat} (hm : Memory.wfFrom lo m = true) (hn : Memory.wfFrom lo n = true)
    (h : ∀ x, Memory.read m x = Memory.read n x) : m = n := by
  induction m generalizing lo n with
  | nil =>
    cases n with
    | nil => rfl
    | cons c n =>
      obtain ⟨a, b⟩ := c
      simp only [Memory.wfFrom, Bool.and_eq_true, decide_eq_true_eq] at hn
      have := h a
      simp [Memory.read] at this
      exact absurd this.symm hn.1.2
  | cons c m ih =>
    obtain ⟨a, b⟩ := c
    have hm' := hm
    simp only [Memory.wfFrom, Bool.and_eq_true, decide_eq_true_eq] at hm
    cases n with
    | nil =>
      have := h a
      simp [Memory.read] at this
      exact absurd this hm.1.2
    | cons d n =>
      obtain ⟨a', b'⟩ := d
      have hn' := hn
      simp only [Memory.wfFrom, Bool.and_eq_true, decide_eq_true_eq] at hn
      have haa : a = a' := by
        rcases Nat.lt_trichotomy a a' with hlt | heq | hgt
        · have h1 := h a
          rw [Memory.read, if_pos rfl, Memory.read, if_neg (by omega : ¬ a = a'),
            Memory.read_below hn.2 (by omega : a < a' + 1)] at h1
          exact absurd h1 hm.1.2
        · exact heq
        · have h1 := h a'
          rw [Memory.read, if_neg (by omega : ¬ a' = a), Memory.read_below hm.2 (by omega : a' < a + 1),
            Memory.read, if_pos rfl] at h1
          exact absurd h1.symm hn.1.2
      subst haa
      have hb : b = b' := by simpa [Memory.read] using h a
      subst hb
      have : m = n := by
        apply ih hm.2 hn.2
        intro x
        by_cases hx : x = a
        · subst hx
          rw [Memory.read_below hm.2 (by omega : x < x + 1), Memory.read_below hn.2 (by omega : x < x + 1)]
        · simpa [Memory.read, hx] using h x
      rw [this]

/-! ## Values of several bytes -/

/-- Storing n bytes leaves every other byte alone. -/
theorem Memory.read_writeLE_outside {m : Memory} {a n v x : Nat} (h : m.wf = true) (hm : a + n ≤ Config.memSize)
    (hx : x < a ∨ a + n ≤ x) : Memory.read (m.writeLE a n v) x = Memory.read m x := by
  induction n generalizing m a v with
  | zero => rfl
  | succ n ih =>
    rw [Memory.writeLE, ih (Memory.wf_write h (by omega) _) (by omega) (by omega)]
    exact Memory.read_write_other (lo := 0) h (by omega) _

/-- Storing n bytes inside the space keeps memory canonical. -/
theorem Memory.wf_writeLE {m : Memory} {a n v : Nat} (h : m.wf = true) (hm : a + n ≤ Config.memSize) :
    (m.writeLE a n v).wf = true := by
  induction n generalizing m a v with
  | zero => exact h
  | succ n ih => exact ih (Memory.wf_write h (by omega) _) (by omega)

/-- A value depends on its own bytes only. -/
theorem Memory.readLE_congr {m k : Memory} {a n : Nat}
    (h : ∀ x, a ≤ x → x < a + n → Memory.read m x = Memory.read k x) : m.readLE a n = k.readLE a n := by
  induction n generalizing a with
  | zero => rfl
  | succ n ih =>
    rw [Memory.readLE, Memory.readLE, h a (by omega) (by omega), ih (fun x h1 h2 => h x (by omega) (by omega))]

/-- A value just stored reads back, little-endian (R82). -/
theorem Memory.readLE_writeLE {m : Memory} {a n v : Nat} (h : m.wf = true) (hm : a + n ≤ Config.memSize) :
    (m.writeLE a n v).readLE a n = v % 256 ^ n := by
  induction n generalizing m a v with
  | zero => simp [Memory.readLE, Nat.mod_one]
  | succ n ih =>
    have hw := Memory.wf_write (x := a) h (by omega) (BitVec.ofNat 8 v)
    rw [Memory.writeLE, Memory.readLE, ih hw (by omega),
      Memory.read_writeLE_outside hw (by omega) (Or.inl (by omega)), Memory.read_write_same (lo := 0) h]
    simp only [BitVec.toNat_ofNat]
    have hp : 256 ^ (n + 1) = 256 * 256 ^ n := by rw [Nat.pow_succ, Nat.mul_comm]
    rw [hp, Nat.mod_mul]

/-- A value of n bytes is below 256^n. -/
theorem Memory.readLE_lt (m : Memory) (a n : Nat) : m.readLE a n < 256 ^ n := by
  induction n generalizing a with
  | zero => simp [Memory.readLE]
  | succ n ih =>
    have h1 := ih (a + 1)
    have h2 := (Memory.read m a).isLt
    rw [Memory.readLE, Nat.pow_succ]
    omega

/-- Storing bytes inside the space keeps memory canonical. -/
theorem Memory.wf_writeBytes {m : Memory} {a : Nat} {l : List Byte} (h : m.wf = true)
    (hm : a + l.length ≤ Config.memSize) : (m.writeBytes a l).wf = true := by
  induction l generalizing m a with
  | nil => exact h
  | cons b l ih =>
    simp only [List.length_cons] at hm
    exact ih (Memory.wf_write h (by omega) _) (by omega)

/-- The memory after Reset is canonical. -/
theorem reset_mem_wf : State.reset.mem.wf = true := rfl

/-- Placing an instruction keeps memory canonical. -/
theorem withFetchWord_wf {s : State} (h : s.mem.wf = true) (nbits w : Nat) :
    (s.withFetchWord nbits w).mem.wf = true := by
  apply Memory.wf_writeBytes h
  simp only [List.length_take, Config.memSize]
  have := s.pc.isLt
  omega

end Sys2Proof.Machine
end

