-- ==== Sys2Proof/Laws/State.lean ====
section
/-! SUPPORT. One lemma per field per update of the state, so that no proof unfolds a record update. -/
namespace Sys2Proof.Machine


/-! ### setReg -/

@[simp] theorem State.setReg_r (s : State) (k : Fin 8) (v : Dword) : (s.setReg k v).r = s.r.set k v := rfl
@[simp] theorem State.setReg_pc (s : State) (k : Fin 8) (v : Dword) : (s.setReg k v).pc = s.pc := rfl
@[simp] theorem State.setReg_sb (s : State) (k : Fin 8) (v : Dword) : (s.setReg k v).sb = s.sb := rfl
@[simp] theorem State.setReg_fp (s : State) (k : Fin 8) (v : Dword) : (s.setReg k v).fp = s.fp := rfl
@[simp] theorem State.setReg_sp0 (s : State) (k : Fin 8) (v : Dword) : (s.setReg k v).sp0 = s.sp0 := rfl
@[simp] theorem State.setReg_sp1 (s : State) (k : Fin 8) (v : Dword) : (s.setReg k v).sp1 = s.sp1 := rfl
@[simp] theorem State.setReg_intbase (s : State) (k : Fin 8) (v : Dword) : (s.setReg k v).intbase = s.intbase := rfl
@[simp] theorem State.setReg_mod (s : State) (k : Fin 8) (v : Dword) : (s.setReg k v).mod = s.mod := rfl
@[simp] theorem State.setReg_psr (s : State) (k : Fin 8) (v : Dword) : (s.setReg k v).psr = s.psr := rfl
@[simp] theorem State.setReg_cfg (s : State) (k : Fin 8) (v : Dword) : (s.setReg k v).cfg = s.cfg := rfl
@[simp] theorem State.setReg_f (s : State) (k : Fin 8) (v : Dword) : (s.setReg k v).f = s.f := rfl
@[simp] theorem State.setReg_fsr (s : State) (k : Fin 8) (v : Dword) : (s.setReg k v).fsr = s.fsr := rfl
@[simp] theorem State.setReg_mmu (s : State) (k : Fin 8) (v : Dword) : (s.setReg k v).mmu = s.mmu := rfl
@[simp] theorem State.setReg_mem (s : State) (k : Fin 8) (v : Dword) : (s.setReg k v).mem = s.mem := rfl
@[simp] theorem State.setReg_waiting (s : State) (k : Fin 8) (v : Dword) : (s.setReg k v).waiting = s.waiting := rfl
@[simp] theorem State.setReg_nmiPending (s : State) (k : Fin 8) (v : Dword) : (s.setReg k v).nmiPending = s.nmiPending := rfl
@[simp] theorem State.setReg_interlock (s : State) (k : Fin 8) (v : Dword) : (s.setReg k v).interlock = s.interlock := rfl
@[simp] theorem State.setReg_env (s : State) (k : Fin 8) (v : Dword) : (s.setReg k v).env = s.env := rfl
@[simp] theorem State.setReg_cut (s : State) (k : Fin 8) (v : Dword) : (s.setReg k v).cut = s.cut := rfl
@[simp] theorem State.setReg_freeCount (s : State) (k : Fin 8) (v : Dword) : (s.setReg k v).freeCount = s.freeCount := rfl

/-! ### setFReg -/

@[simp] theorem State.setFReg_r (s : State) (k : Fin 8) (v : Dword) : (s.setFReg k v).r = s.r := rfl
@[simp] theorem State.setFReg_pc (s : State) (k : Fin 8) (v : Dword) : (s.setFReg k v).pc = s.pc := rfl
@[simp] theorem State.setFReg_sb (s : State) (k : Fin 8) (v : Dword) : (s.setFReg k v).sb = s.sb := rfl
@[simp] theorem State.setFReg_fp (s : State) (k : Fin 8) (v : Dword) : (s.setFReg k v).fp = s.fp := rfl
@[simp] theorem State.setFReg_sp0 (s : State) (k : Fin 8) (v : Dword) : (s.setFReg k v).sp0 = s.sp0 := rfl
@[simp] theorem State.setFReg_sp1 (s : State) (k : Fin 8) (v : Dword) : (s.setFReg k v).sp1 = s.sp1 := rfl
@[simp] theorem State.setFReg_intbase (s : State) (k : Fin 8) (v : Dword) : (s.setFReg k v).intbase = s.intbase := rfl
@[simp] theorem State.setFReg_mod (s : State) (k : Fin 8) (v : Dword) : (s.setFReg k v).mod = s.mod := rfl
@[simp] theorem State.setFReg_psr (s : State) (k : Fin 8) (v : Dword) : (s.setFReg k v).psr = s.psr := rfl
@[simp] theorem State.setFReg_cfg (s : State) (k : Fin 8) (v : Dword) : (s.setFReg k v).cfg = s.cfg := rfl
@[simp] theorem State.setFReg_f (s : State) (k : Fin 8) (v : Dword) : (s.setFReg k v).f = s.f.set k v := rfl
@[simp] theorem State.setFReg_fsr (s : State) (k : Fin 8) (v : Dword) : (s.setFReg k v).fsr = s.fsr := rfl
@[simp] theorem State.setFReg_mmu (s : State) (k : Fin 8) (v : Dword) : (s.setFReg k v).mmu = s.mmu := rfl
@[simp] theorem State.setFReg_mem (s : State) (k : Fin 8) (v : Dword) : (s.setFReg k v).mem = s.mem := rfl
@[simp] theorem State.setFReg_waiting (s : State) (k : Fin 8) (v : Dword) : (s.setFReg k v).waiting = s.waiting := rfl
@[simp] theorem State.setFReg_nmiPending (s : State) (k : Fin 8) (v : Dword) : (s.setFReg k v).nmiPending = s.nmiPending := rfl
@[simp] theorem State.setFReg_interlock (s : State) (k : Fin 8) (v : Dword) : (s.setFReg k v).interlock = s.interlock := rfl
@[simp] theorem State.setFReg_env (s : State) (k : Fin 8) (v : Dword) : (s.setFReg k v).env = s.env := rfl
@[simp] theorem State.setFReg_cut (s : State) (k : Fin 8) (v : Dword) : (s.setFReg k v).cut = s.cut := rfl
@[simp] theorem State.setFReg_freeCount (s : State) (k : Fin 8) (v : Dword) : (s.setFReg k v).freeCount = s.freeCount := rfl

/-! ### setRegLow -/

@[simp] theorem State.setRegLow_r (s : State) (k : Fin 8) (n v : Nat) : (s.setRegLow k n v).r = s.r.set k (mergeLow s.r[k] n v) := rfl
@[simp] theorem State.setRegLow_pc (s : State) (k : Fin 8) (n v : Nat) : (s.setRegLow k n v).pc = s.pc := rfl
@[simp] theorem State.setRegLow_sb (s : State) (k : Fin 8) (n v : Nat) : (s.setRegLow k n v).sb = s.sb := rfl
@[simp] theorem State.setRegLow_fp (s : State) (k : Fin 8) (n v : Nat) : (s.setRegLow k n v).fp = s.fp := rfl
@[simp] theorem State.setRegLow_sp0 (s : State) (k : Fin 8) (n v : Nat) : (s.setRegLow k n v).sp0 = s.sp0 := rfl
@[simp] theorem State.setRegLow_sp1 (s : State) (k : Fin 8) (n v : Nat) : (s.setRegLow k n v).sp1 = s.sp1 := rfl
@[simp] theorem State.setRegLow_intbase (s : State) (k : Fin 8) (n v : Nat) : (s.setRegLow k n v).intbase = s.intbase := rfl
@[simp] theorem State.setRegLow_mod (s : State) (k : Fin 8) (n v : Nat) : (s.setRegLow k n v).mod = s.mod := rfl
@[simp] theorem State.setRegLow_psr (s : State) (k : Fin 8) (n v : Nat) : (s.setRegLow k n v).psr = s.psr := rfl
@[simp] theorem State.setRegLow_cfg (s : State) (k : Fin 8) (n v : Nat) : (s.setRegLow k n v).cfg = s.cfg := rfl
@[simp] theorem State.setRegLow_f (s : State) (k : Fin 8) (n v : Nat) : (s.setRegLow k n v).f = s.f := rfl
@[simp] theorem State.setRegLow_fsr (s : State) (k : Fin 8) (n v : Nat) : (s.setRegLow k n v).fsr = s.fsr := rfl
@[simp] theorem State.setRegLow_mmu (s : State) (k : Fin 8) (n v : Nat) : (s.setRegLow k n v).mmu = s.mmu := rfl
@[simp] theorem State.setRegLow_mem (s : State) (k : Fin 8) (n v : Nat) : (s.setRegLow k n v).mem = s.mem := rfl
@[simp] theorem State.setRegLow_waiting (s : State) (k : Fin 8) (n v : Nat) : (s.setRegLow k n v).waiting = s.waiting := rfl
@[simp] theorem State.setRegLow_nmiPending (s : State) (k : Fin 8) (n v : Nat) : (s.setRegLow k n v).nmiPending = s.nmiPending := rfl
@[simp] theorem State.setRegLow_interlock (s : State) (k : Fin 8) (n v : Nat) : (s.setRegLow k n v).interlock = s.interlock := rfl
@[simp] theorem State.setRegLow_env (s : State) (k : Fin 8) (n v : Nat) : (s.setRegLow k n v).env = s.env := rfl
@[simp] theorem State.setRegLow_cut (s : State) (k : Fin 8) (n v : Nat) : (s.setRegLow k n v).cut = s.cut := rfl
@[simp] theorem State.setRegLow_freeCount (s : State) (k : Fin 8) (n v : Nat) : (s.setRegLow k n v).freeCount = s.freeCount := rfl

/-! ### setFlag -/

@[simp] theorem State.setFlag_r (s : State) (k : Flag) (b : Bool) : (s.setFlag k b).r = s.r := rfl
@[simp] theorem State.setFlag_pc (s : State) (k : Flag) (b : Bool) : (s.setFlag k b).pc = s.pc := rfl
@[simp] theorem State.setFlag_sb (s : State) (k : Flag) (b : Bool) : (s.setFlag k b).sb = s.sb := rfl
@[simp] theorem State.setFlag_fp (s : State) (k : Flag) (b : Bool) : (s.setFlag k b).fp = s.fp := rfl
@[simp] theorem State.setFlag_sp0 (s : State) (k : Flag) (b : Bool) : (s.setFlag k b).sp0 = s.sp0 := rfl
@[simp] theorem State.setFlag_sp1 (s : State) (k : Flag) (b : Bool) : (s.setFlag k b).sp1 = s.sp1 := rfl
@[simp] theorem State.setFlag_intbase (s : State) (k : Flag) (b : Bool) : (s.setFlag k b).intbase = s.intbase := rfl
@[simp] theorem State.setFlag_mod (s : State) (k : Flag) (b : Bool) : (s.setFlag k b).mod = s.mod := rfl
@[simp] theorem State.setFlag_psr (s : State) (k : Flag) (b : Bool) : (s.setFlag k b).psr = putFlag s.psr k b := rfl
@[simp] theorem State.setFlag_cfg (s : State) (k : Flag) (b : Bool) : (s.setFlag k b).cfg = s.cfg := rfl
@[simp] theorem State.setFlag_f (s : State) (k : Flag) (b : Bool) : (s.setFlag k b).f = s.f := rfl
@[simp] theorem State.setFlag_fsr (s : State) (k : Flag) (b : Bool) : (s.setFlag k b).fsr = s.fsr := rfl
@[simp] theorem State.setFlag_mmu (s : State) (k : Flag) (b : Bool) : (s.setFlag k b).mmu = s.mmu := rfl
@[simp] theorem State.setFlag_mem (s : State) (k : Flag) (b : Bool) : (s.setFlag k b).mem = s.mem := rfl
@[simp] theorem State.setFlag_waiting (s : State) (k : Flag) (b : Bool) : (s.setFlag k b).waiting = s.waiting := rfl
@[simp] theorem State.setFlag_nmiPending (s : State) (k : Flag) (b : Bool) : (s.setFlag k b).nmiPending = s.nmiPending := rfl
@[simp] theorem State.setFlag_interlock (s : State) (k : Flag) (b : Bool) : (s.setFlag k b).interlock = s.interlock := rfl
@[simp] theorem State.setFlag_env (s : State) (k : Flag) (b : Bool) : (s.setFlag k b).env = s.env := rfl
@[simp] theorem State.setFlag_cut (s : State) (k : Flag) (b : Bool) : (s.setFlag k b).cut = s.cut := rfl
@[simp] theorem State.setFlag_freeCount (s : State) (k : Flag) (b : Bool) : (s.setFlag k b).freeCount = s.freeCount := rfl

/-! ### loadPsr -/

@[simp] theorem State.loadPsr_r (s : State) (v : Nat) : (s.loadPsr v).r = s.r := rfl
@[simp] theorem State.loadPsr_pc (s : State) (v : Nat) : (s.loadPsr v).pc = s.pc := rfl
@[simp] theorem State.loadPsr_sb (s : State) (v : Nat) : (s.loadPsr v).sb = s.sb := rfl
@[simp] theorem State.loadPsr_fp (s : State) (v : Nat) : (s.loadPsr v).fp = s.fp := rfl
@[simp] theorem State.loadPsr_sp0 (s : State) (v : Nat) : (s.loadPsr v).sp0 = s.sp0 := rfl
@[simp] theorem State.loadPsr_sp1 (s : State) (v : Nat) : (s.loadPsr v).sp1 = s.sp1 := rfl
@[simp] theorem State.loadPsr_intbase (s : State) (v : Nat) : (s.loadPsr v).intbase = s.intbase := rfl
@[simp] theorem State.loadPsr_mod (s : State) (v : Nat) : (s.loadPsr v).mod = s.mod := rfl
@[simp] theorem State.loadPsr_psr (s : State) (v : Nat) : (s.loadPsr v).psr = BitVec.ofNat 16 v &&& psrMask := rfl
@[simp] theorem State.loadPsr_cfg (s : State) (v : Nat) : (s.loadPsr v).cfg = s.cfg := rfl
@[simp] theorem State.loadPsr_f (s : State) (v : Nat) : (s.loadPsr v).f = s.f := rfl
@[simp] theorem State.loadPsr_fsr (s : State) (v : Nat) : (s.loadPsr v).fsr = s.fsr := rfl
@[simp] theorem State.loadPsr_mmu (s : State) (v : Nat) : (s.loadPsr v).mmu = s.mmu := rfl
@[simp] theorem State.loadPsr_mem (s : State) (v : Nat) : (s.loadPsr v).mem = s.mem := rfl
@[simp] theorem State.loadPsr_waiting (s : State) (v : Nat) : (s.loadPsr v).waiting = s.waiting := rfl
@[simp] theorem State.loadPsr_nmiPending (s : State) (v : Nat) : (s.loadPsr v).nmiPending = s.nmiPending := rfl
@[simp] theorem State.loadPsr_interlock (s : State) (v : Nat) : (s.loadPsr v).interlock = s.interlock := rfl
@[simp] theorem State.loadPsr_env (s : State) (v : Nat) : (s.loadPsr v).env = s.env := rfl
@[simp] theorem State.loadPsr_cut (s : State) (v : Nat) : (s.loadPsr v).cut = s.cut := rfl
@[simp] theorem State.loadPsr_freeCount (s : State) (v : Nat) : (s.loadPsr v).freeCount = s.freeCount := rfl

/-! ### loadUpsr -/

@[simp] theorem State.loadUpsr_r (s : State) (v : Nat) : (s.loadUpsr v).r = s.r := rfl
@[simp] theorem State.loadUpsr_pc (s : State) (v : Nat) : (s.loadUpsr v).pc = s.pc := rfl
@[simp] theorem State.loadUpsr_sb (s : State) (v : Nat) : (s.loadUpsr v).sb = s.sb := rfl
@[simp] theorem State.loadUpsr_fp (s : State) (v : Nat) : (s.loadUpsr v).fp = s.fp := rfl
@[simp] theorem State.loadUpsr_sp0 (s : State) (v : Nat) : (s.loadUpsr v).sp0 = s.sp0 := rfl
@[simp] theorem State.loadUpsr_sp1 (s : State) (v : Nat) : (s.loadUpsr v).sp1 = s.sp1 := rfl
@[simp] theorem State.loadUpsr_intbase (s : State) (v : Nat) : (s.loadUpsr v).intbase = s.intbase := rfl
@[simp] theorem State.loadUpsr_mod (s : State) (v : Nat) : (s.loadUpsr v).mod = s.mod := rfl
@[simp] theorem State.loadUpsr_psr (s : State) (v : Nat) : (s.loadUpsr v).psr = BitVec.ofNat 16 (s.psr.toNat / 256 * 256 + v % 256) &&& psrMask := rfl
@[simp] theorem State.loadUpsr_cfg (s : State) (v : Nat) : (s.loadUpsr v).cfg = s.cfg := rfl
@[simp] theorem State.loadUpsr_f (s : State) (v : Nat) : (s.loadUpsr v).f = s.f := rfl
@[simp] theorem State.loadUpsr_fsr (s : State) (v : Nat) : (s.loadUpsr v).fsr = s.fsr := rfl
@[simp] theorem State.loadUpsr_mmu (s : State) (v : Nat) : (s.loadUpsr v).mmu = s.mmu := rfl
@[simp] theorem State.loadUpsr_mem (s : State) (v : Nat) : (s.loadUpsr v).mem = s.mem := rfl
@[simp] theorem State.loadUpsr_waiting (s : State) (v : Nat) : (s.loadUpsr v).waiting = s.waiting := rfl
@[simp] theorem State.loadUpsr_nmiPending (s : State) (v : Nat) : (s.loadUpsr v).nmiPending = s.nmiPending := rfl
@[simp] theorem State.loadUpsr_interlock (s : State) (v : Nat) : (s.loadUpsr v).interlock = s.interlock := rfl
@[simp] theorem State.loadUpsr_env (s : State) (v : Nat) : (s.loadUpsr v).env = s.env := rfl
@[simp] theorem State.loadUpsr_cut (s : State) (v : Nat) : (s.loadUpsr v).cut = s.cut := rfl
@[simp] theorem State.loadUpsr_freeCount (s : State) (v : Nat) : (s.loadUpsr v).freeCount = s.freeCount := rfl

/-! ### goto -/

@[simp] theorem State.goto_r (s : State) (a : Dword) : (s.goto a).r = s.r := rfl
@[simp] theorem State.goto_pc (s : State) (a : Dword) : (s.goto a).pc = low24 a.toNat := rfl
@[simp] theorem State.goto_sb (s : State) (a : Dword) : (s.goto a).sb = s.sb := rfl
@[simp] theorem State.goto_fp (s : State) (a : Dword) : (s.goto a).fp = s.fp := rfl
@[simp] theorem State.goto_sp0 (s : State) (a : Dword) : (s.goto a).sp0 = s.sp0 := rfl
@[simp] theorem State.goto_sp1 (s : State) (a : Dword) : (s.goto a).sp1 = s.sp1 := rfl
@[simp] theorem State.goto_intbase (s : State) (a : Dword) : (s.goto a).intbase = s.intbase := rfl
@[simp] theorem State.goto_mod (s : State) (a : Dword) : (s.goto a).mod = s.mod := rfl
@[simp] theorem State.goto_psr (s : State) (a : Dword) : (s.goto a).psr = s.psr := rfl
@[simp] theorem State.goto_cfg (s : State) (a : Dword) : (s.goto a).cfg = s.cfg := rfl
@[simp] theorem State.goto_f (s : State) (a : Dword) : (s.goto a).f = s.f := rfl
@[simp] theorem State.goto_fsr (s : State) (a : Dword) : (s.goto a).fsr = s.fsr := rfl
@[simp] theorem State.goto_mmu (s : State) (a : Dword) : (s.goto a).mmu = s.mmu := rfl
@[simp] theorem State.goto_mem (s : State) (a : Dword) : (s.goto a).mem = s.mem := rfl
@[simp] theorem State.goto_waiting (s : State) (a : Dword) : (s.goto a).waiting = s.waiting := rfl
@[simp] theorem State.goto_nmiPending (s : State) (a : Dword) : (s.goto a).nmiPending = s.nmiPending := rfl
@[simp] theorem State.goto_interlock (s : State) (a : Dword) : (s.goto a).interlock = s.interlock := rfl
@[simp] theorem State.goto_env (s : State) (a : Dword) : (s.goto a).env = s.env := rfl
@[simp] theorem State.goto_cut (s : State) (a : Dword) : (s.goto a).cut = s.cut := rfl
@[simp] theorem State.goto_freeCount (s : State) (a : Dword) : (s.goto a).freeCount = s.freeCount := rfl

/-! ### begin -/

@[simp] theorem State.begin_r (s : State) : (s.begin).r = s.r := rfl
@[simp] theorem State.begin_pc (s : State) : (s.begin).pc = s.pc := rfl
@[simp] theorem State.begin_sb (s : State) : (s.begin).sb = s.sb := rfl
@[simp] theorem State.begin_fp (s : State) : (s.begin).fp = s.fp := rfl
@[simp] theorem State.begin_sp0 (s : State) : (s.begin).sp0 = s.sp0 := rfl
@[simp] theorem State.begin_sp1 (s : State) : (s.begin).sp1 = s.sp1 := rfl
@[simp] theorem State.begin_intbase (s : State) : (s.begin).intbase = s.intbase := rfl
@[simp] theorem State.begin_mod (s : State) : (s.begin).mod = s.mod := rfl
@[simp] theorem State.begin_psr (s : State) : (s.begin).psr = putFlag s.psr .p (s.flag .t) := rfl
@[simp] theorem State.begin_cfg (s : State) : (s.begin).cfg = s.cfg := rfl
@[simp] theorem State.begin_f (s : State) : (s.begin).f = s.f := rfl
@[simp] theorem State.begin_fsr (s : State) : (s.begin).fsr = s.fsr := rfl
@[simp] theorem State.begin_mmu (s : State) : (s.begin).mmu = s.mmu := rfl
@[simp] theorem State.begin_mem (s : State) : (s.begin).mem = s.mem := rfl
@[simp] theorem State.begin_waiting (s : State) : (s.begin).waiting = s.waiting := rfl
@[simp] theorem State.begin_nmiPending (s : State) : (s.begin).nmiPending = s.nmiPending := rfl
@[simp] theorem State.begin_interlock (s : State) : (s.begin).interlock = false := rfl
@[simp] theorem State.begin_env (s : State) : (s.begin).env = s.env := rfl
@[simp] theorem State.begin_cut (s : State) : (s.begin).cut = s.cut := rfl
@[simp] theorem State.begin_freeCount (s : State) : (s.begin).freeCount = s.freeCount := rfl

/-! ### latchNmi -/

@[simp] theorem State.latchNmi_r (s : State) : (s.latchNmi).r = s.r := rfl
@[simp] theorem State.latchNmi_pc (s : State) : (s.latchNmi).pc = s.pc := rfl
@[simp] theorem State.latchNmi_sb (s : State) : (s.latchNmi).sb = s.sb := rfl
@[simp] theorem State.latchNmi_fp (s : State) : (s.latchNmi).fp = s.fp := rfl
@[simp] theorem State.latchNmi_sp0 (s : State) : (s.latchNmi).sp0 = s.sp0 := rfl
@[simp] theorem State.latchNmi_sp1 (s : State) : (s.latchNmi).sp1 = s.sp1 := rfl
@[simp] theorem State.latchNmi_intbase (s : State) : (s.latchNmi).intbase = s.intbase := rfl
@[simp] theorem State.latchNmi_mod (s : State) : (s.latchNmi).mod = s.mod := rfl
@[simp] theorem State.latchNmi_psr (s : State) : (s.latchNmi).psr = s.psr := rfl
@[simp] theorem State.latchNmi_cfg (s : State) : (s.latchNmi).cfg = s.cfg := rfl
@[simp] theorem State.latchNmi_f (s : State) : (s.latchNmi).f = s.f := rfl
@[simp] theorem State.latchNmi_fsr (s : State) : (s.latchNmi).fsr = s.fsr := rfl
@[simp] theorem State.latchNmi_mmu (s : State) : (s.latchNmi).mmu = s.mmu := rfl
@[simp] theorem State.latchNmi_mem (s : State) : (s.latchNmi).mem = s.mem := rfl
@[simp] theorem State.latchNmi_waiting (s : State) : (s.latchNmi).waiting = s.waiting := rfl
@[simp] theorem State.latchNmi_nmiPending (s : State) : (s.latchNmi).nmiPending = (s.nmiPending || s.input.nmiEdge) := rfl
@[simp] theorem State.latchNmi_interlock (s : State) : (s.latchNmi).interlock = s.interlock := rfl
@[simp] theorem State.latchNmi_env (s : State) : (s.latchNmi).env = s.env := rfl
@[simp] theorem State.latchNmi_cut (s : State) : (s.latchNmi).cut = s.cut := rfl
@[simp] theorem State.latchNmi_freeCount (s : State) : (s.latchNmi).freeCount = s.freeCount := rfl

/-! ### arm -/

@[simp] theorem State.arm_r (s : State) : (s.arm).r = s.r := rfl
@[simp] theorem State.arm_pc (s : State) : (s.arm).pc = s.pc := rfl
@[simp] theorem State.arm_sb (s : State) : (s.arm).sb = s.sb := rfl
@[simp] theorem State.arm_fp (s : State) : (s.arm).fp = s.fp := rfl
@[simp] theorem State.arm_sp0 (s : State) : (s.arm).sp0 = s.sp0 := rfl
@[simp] theorem State.arm_sp1 (s : State) : (s.arm).sp1 = s.sp1 := rfl
@[simp] theorem State.arm_intbase (s : State) : (s.arm).intbase = s.intbase := rfl
@[simp] theorem State.arm_mod (s : State) : (s.arm).mod = s.mod := rfl
@[simp] theorem State.arm_psr (s : State) : (s.arm).psr = s.psr := rfl
@[simp] theorem State.arm_cfg (s : State) : (s.arm).cfg = s.cfg := rfl
@[simp] theorem State.arm_f (s : State) : (s.arm).f = s.f := rfl
@[simp] theorem State.arm_fsr (s : State) : (s.arm).fsr = s.fsr := rfl
@[simp] theorem State.arm_mmu (s : State) : (s.arm).mmu = s.mmu := rfl
@[simp] theorem State.arm_mem (s : State) : (s.arm).mem = s.mem := rfl
@[simp] theorem State.arm_waiting (s : State) : (s.arm).waiting = s.waiting := rfl
@[simp] theorem State.arm_nmiPending (s : State) : (s.arm).nmiPending = s.nmiPending := rfl
@[simp] theorem State.arm_interlock (s : State) : (s.arm).interlock = s.interlock := rfl
@[simp] theorem State.arm_env (s : State) : (s.arm).env = s.env := rfl
@[simp] theorem State.arm_cut (s : State) : (s.arm).cut = s.input.cut := rfl
@[simp] theorem State.arm_freeCount (s : State) : (s.arm).freeCount = s.freeCount := rfl

/-! ### spend -/

@[simp] theorem State.spend_r (s : State) : (s.spend).r = s.r := rfl
@[simp] theorem State.spend_pc (s : State) : (s.spend).pc = s.pc := rfl
@[simp] theorem State.spend_sb (s : State) : (s.spend).sb = s.sb := rfl
@[simp] theorem State.spend_fp (s : State) : (s.spend).fp = s.fp := rfl
@[simp] theorem State.spend_sp0 (s : State) : (s.spend).sp0 = s.sp0 := rfl
@[simp] theorem State.spend_sp1 (s : State) : (s.spend).sp1 = s.sp1 := rfl
@[simp] theorem State.spend_intbase (s : State) : (s.spend).intbase = s.intbase := rfl
@[simp] theorem State.spend_mod (s : State) : (s.spend).mod = s.mod := rfl
@[simp] theorem State.spend_psr (s : State) : (s.spend).psr = s.psr := rfl
@[simp] theorem State.spend_cfg (s : State) : (s.spend).cfg = s.cfg := rfl
@[simp] theorem State.spend_f (s : State) : (s.spend).f = s.f := rfl
@[simp] theorem State.spend_fsr (s : State) : (s.spend).fsr = s.fsr := rfl
@[simp] theorem State.spend_mmu (s : State) : (s.spend).mmu = s.mmu := rfl
@[simp] theorem State.spend_mem (s : State) : (s.spend).mem = s.mem := rfl
@[simp] theorem State.spend_waiting (s : State) : (s.spend).waiting = s.waiting := rfl
@[simp] theorem State.spend_nmiPending (s : State) : (s.spend).nmiPending = s.nmiPending := rfl
@[simp] theorem State.spend_interlock (s : State) : (s.spend).interlock = s.interlock := rfl
@[simp] theorem State.spend_env (s : State) : (s.spend).env = s.env.tail := rfl
@[simp] theorem State.spend_cut (s : State) : (s.spend).cut = .never := rfl
@[simp] theorem State.spend_freeCount (s : State) : (s.spend).freeCount = s.freeCount := rfl

/-! ### fresh -/

@[simp] theorem State.fresh_r (s : State) : (s.fresh.2).r = s.r := rfl
@[simp] theorem State.fresh_pc (s : State) : (s.fresh.2).pc = s.pc := rfl
@[simp] theorem State.fresh_sb (s : State) : (s.fresh.2).sb = s.sb := rfl
@[simp] theorem State.fresh_fp (s : State) : (s.fresh.2).fp = s.fp := rfl
@[simp] theorem State.fresh_sp0 (s : State) : (s.fresh.2).sp0 = s.sp0 := rfl
@[simp] theorem State.fresh_sp1 (s : State) : (s.fresh.2).sp1 = s.sp1 := rfl
@[simp] theorem State.fresh_intbase (s : State) : (s.fresh.2).intbase = s.intbase := rfl
@[simp] theorem State.fresh_mod (s : State) : (s.fresh.2).mod = s.mod := rfl
@[simp] theorem State.fresh_psr (s : State) : (s.fresh.2).psr = s.psr := rfl
@[simp] theorem State.fresh_cfg (s : State) : (s.fresh.2).cfg = s.cfg := rfl
@[simp] theorem State.fresh_f (s : State) : (s.fresh.2).f = s.f := rfl
@[simp] theorem State.fresh_fsr (s : State) : (s.fresh.2).fsr = s.fsr := rfl
@[simp] theorem State.fresh_mmu (s : State) : (s.fresh.2).mmu = s.mmu := rfl
@[simp] theorem State.fresh_mem (s : State) : (s.fresh.2).mem = s.mem := rfl
@[simp] theorem State.fresh_waiting (s : State) : (s.fresh.2).waiting = s.waiting := rfl
@[simp] theorem State.fresh_nmiPending (s : State) : (s.fresh.2).nmiPending = s.nmiPending := rfl
@[simp] theorem State.fresh_interlock (s : State) : (s.fresh.2).interlock = s.interlock := rfl
@[simp] theorem State.fresh_env (s : State) : (s.fresh.2).env = s.env := rfl
@[simp] theorem State.fresh_cut (s : State) : (s.fresh.2).cut = s.cut := rfl
@[simp] theorem State.fresh_freeCount (s : State) : (s.fresh.2).freeCount = s.freeCount + 1 := rfl

/-! ### freshNat -/

@[simp] theorem State.freshNat_r (s : State) (bits : Nat) : ((s.freshNat bits).2).r = s.r := rfl
@[simp] theorem State.freshNat_pc (s : State) (bits : Nat) : ((s.freshNat bits).2).pc = s.pc := rfl
@[simp] theorem State.freshNat_sb (s : State) (bits : Nat) : ((s.freshNat bits).2).sb = s.sb := rfl
@[simp] theorem State.freshNat_fp (s : State) (bits : Nat) : ((s.freshNat bits).2).fp = s.fp := rfl
@[simp] theorem State.freshNat_sp0 (s : State) (bits : Nat) : ((s.freshNat bits).2).sp0 = s.sp0 := rfl
@[simp] theorem State.freshNat_sp1 (s : State) (bits : Nat) : ((s.freshNat bits).2).sp1 = s.sp1 := rfl
@[simp] theorem State.freshNat_intbase (s : State) (bits : Nat) : ((s.freshNat bits).2).intbase = s.intbase := rfl
@[simp] theorem State.freshNat_mod (s : State) (bits : Nat) : ((s.freshNat bits).2).mod = s.mod := rfl
@[simp] theorem State.freshNat_psr (s : State) (bits : Nat) : ((s.freshNat bits).2).psr = s.psr := rfl
@[simp] theorem State.freshNat_cfg (s : State) (bits : Nat) : ((s.freshNat bits).2).cfg = s.cfg := rfl
@[simp] theorem State.freshNat_f (s : State) (bits : Nat) : ((s.freshNat bits).2).f = s.f := rfl
@[simp] theorem State.freshNat_fsr (s : State) (bits : Nat) : ((s.freshNat bits).2).fsr = s.fsr := rfl
@[simp] theorem State.freshNat_mmu (s : State) (bits : Nat) : ((s.freshNat bits).2).mmu = s.mmu := rfl
@[simp] theorem State.freshNat_mem (s : State) (bits : Nat) : ((s.freshNat bits).2).mem = s.mem := rfl
@[simp] theorem State.freshNat_waiting (s : State) (bits : Nat) : ((s.freshNat bits).2).waiting = s.waiting := rfl
@[simp] theorem State.freshNat_nmiPending (s : State) (bits : Nat) : ((s.freshNat bits).2).nmiPending = s.nmiPending := rfl
@[simp] theorem State.freshNat_interlock (s : State) (bits : Nat) : ((s.freshNat bits).2).interlock = s.interlock := rfl
@[simp] theorem State.freshNat_env (s : State) (bits : Nat) : ((s.freshNat bits).2).env = s.env := rfl
@[simp] theorem State.freshNat_cut (s : State) (bits : Nat) : ((s.freshNat bits).2).cut = s.cut := rfl
@[simp] theorem State.freshNat_freeCount (s : State) (bits : Nat) : ((s.freshNat bits).2).freeCount = s.freeCount + 1 := rfl

/-! ### setSp -/

@[simp] theorem State.setSp_r (s : State) (v : AddrReg) : (s.setSp v).r = s.r := by
  unfold State.setSp; split <;> rfl
@[simp] theorem State.setSp_pc (s : State) (v : AddrReg) : (s.setSp v).pc = s.pc := by
  unfold State.setSp; split <;> rfl
@[simp] theorem State.setSp_sb (s : State) (v : AddrReg) : (s.setSp v).sb = s.sb := by
  unfold State.setSp; split <;> rfl
@[simp] theorem State.setSp_fp (s : State) (v : AddrReg) : (s.setSp v).fp = s.fp := by
  unfold State.setSp; split <;> rfl
@[simp] theorem State.setSp_sp0 (s : State) (v : AddrReg) : (s.setSp v).sp0 = if s.flag .s then s.sp0 else v := by
  unfold State.setSp; split <;> rfl
@[simp] theorem State.setSp_sp1 (s : State) (v : AddrReg) : (s.setSp v).sp1 = if s.flag .s then v else s.sp1 := by
  unfold State.setSp; split <;> rfl
@[simp] theorem State.setSp_intbase (s : State) (v : AddrReg) : (s.setSp v).intbase = s.intbase := by
  unfold State.setSp; split <;> rfl
@[simp] theorem State.setSp_mod (s : State) (v : AddrReg) : (s.setSp v).mod = s.mod := by
  unfold State.setSp; split <;> rfl
@[simp] theorem State.setSp_psr (s : State) (v : AddrReg) : (s.setSp v).psr = s.psr := by
  unfold State.setSp; split <;> rfl
@[simp] theorem State.setSp_cfg (s : State) (v : AddrReg) : (s.setSp v).cfg = s.cfg := by
  unfold State.setSp; split <;> rfl
@[simp] theorem State.setSp_f (s : State) (v : AddrReg) : (s.setSp v).f = s.f := by
  unfold State.setSp; split <;> rfl
@[simp] theorem State.setSp_fsr (s : State) (v : AddrReg) : (s.setSp v).fsr = s.fsr := by
  unfold State.setSp; split <;> rfl
@[simp] theorem State.setSp_mmu (s : State) (v : AddrReg) : (s.setSp v).mmu = s.mmu := by
  unfold State.setSp; split <;> rfl
@[simp] theorem State.setSp_mem (s : State) (v : AddrReg) : (s.setSp v).mem = s.mem := by
  unfold State.setSp; split <;> rfl
@[simp] theorem State.setSp_waiting (s : State) (v : AddrReg) : (s.setSp v).waiting = s.waiting := by
  unfold State.setSp; split <;> rfl
@[simp] theorem State.setSp_nmiPending (s : State) (v : AddrReg) : (s.setSp v).nmiPending = s.nmiPending := by
  unfold State.setSp; split <;> rfl
@[simp] theorem State.setSp_interlock (s : State) (v : AddrReg) : (s.setSp v).interlock = s.interlock := by
  unfold State.setSp; split <;> rfl
@[simp] theorem State.setSp_env (s : State) (v : AddrReg) : (s.setSp v).env = s.env := by
  unfold State.setSp; split <;> rfl
@[simp] theorem State.setSp_cut (s : State) (v : AddrReg) : (s.setSp v).cut = s.cut := by
  unfold State.setSp; split <;> rfl
@[simp] theorem State.setSp_freeCount (s : State) (v : AddrReg) : (s.setSp v).freeCount = s.freeCount := by
  unfold State.setSp; split <;> rfl

/-! ### sum24 -/

@[simp] theorem State.sum24_r (s : State) (v : AddrReg) (k : Int) : ((s.sum24 v k).2).r = s.r := by
  unfold State.sum24; dsimp only; split <;> rfl
@[simp] theorem State.sum24_pc (s : State) (v : AddrReg) (k : Int) : ((s.sum24 v k).2).pc = s.pc := by
  unfold State.sum24; dsimp only; split <;> rfl
@[simp] theorem State.sum24_sb (s : State) (v : AddrReg) (k : Int) : ((s.sum24 v k).2).sb = s.sb := by
  unfold State.sum24; dsimp only; split <;> rfl
@[simp] theorem State.sum24_fp (s : State) (v : AddrReg) (k : Int) : ((s.sum24 v k).2).fp = s.fp := by
  unfold State.sum24; dsimp only; split <;> rfl
@[simp] theorem State.sum24_sp0 (s : State) (v : AddrReg) (k : Int) : ((s.sum24 v k).2).sp0 = s.sp0 := by
  unfold State.sum24; dsimp only; split <;> rfl
@[simp] theorem State.sum24_sp1 (s : State) (v : AddrReg) (k : Int) : ((s.sum24 v k).2).sp1 = s.sp1 := by
  unfold State.sum24; dsimp only; split <;> rfl
@[simp] theorem State.sum24_intbase (s : State) (v : AddrReg) (k : Int) : ((s.sum24 v k).2).intbase = s.intbase := by
  unfold State.sum24; dsimp only; split <;> rfl
@[simp] theorem State.sum24_mod (s : State) (v : AddrReg) (k : Int) : ((s.sum24 v k).2).mod = s.mod := by
  unfold State.sum24; dsimp only; split <;> rfl
@[simp] theorem State.sum24_psr (s : State) (v : AddrReg) (k : Int) : ((s.sum24 v k).2).psr = s.psr := by
  unfold State.sum24; dsimp only; split <;> rfl
@[simp] theorem State.sum24_cfg (s : State) (v : AddrReg) (k : Int) : ((s.sum24 v k).2).cfg = s.cfg := by
  unfold State.sum24; dsimp only; split <;> rfl
@[simp] theorem State.sum24_f (s : State) (v : AddrReg) (k : Int) : ((s.sum24 v k).2).f = s.f := by
  unfold State.sum24; dsimp only; split <;> rfl
@[simp] theorem State.sum24_fsr (s : State) (v : AddrReg) (k : Int) : ((s.sum24 v k).2).fsr = s.fsr := by
  unfold State.sum24; dsimp only; split <;> rfl
@[simp] theorem State.sum24_mmu (s : State) (v : AddrReg) (k : Int) : ((s.sum24 v k).2).mmu = s.mmu := by
  unfold State.sum24; dsimp only; split <;> rfl
@[simp] theorem State.sum24_mem (s : State) (v : AddrReg) (k : Int) : ((s.sum24 v k).2).mem = s.mem := by
  unfold State.sum24; dsimp only; split <;> rfl
@[simp] theorem State.sum24_waiting (s : State) (v : AddrReg) (k : Int) : ((s.sum24 v k).2).waiting = s.waiting := by
  unfold State.sum24; dsimp only; split <;> rfl
@[simp] theorem State.sum24_nmiPending (s : State) (v : AddrReg) (k : Int) : ((s.sum24 v k).2).nmiPending = s.nmiPending := by
  unfold State.sum24; dsimp only; split <;> rfl
@[simp] theorem State.sum24_interlock (s : State) (v : AddrReg) (k : Int) : ((s.sum24 v k).2).interlock = s.interlock := by
  unfold State.sum24; dsimp only; split <;> rfl
@[simp] theorem State.sum24_env (s : State) (v : AddrReg) (k : Int) : ((s.sum24 v k).2).env = s.env := by
  unfold State.sum24; dsimp only; split <;> rfl
@[simp] theorem State.sum24_cut (s : State) (v : AddrReg) (k : Int) : ((s.sum24 v k).2).cut = s.cut := by
  unfold State.sum24; dsimp only; split <;> rfl

@[simp] theorem State.sum24_flag (s : State) (v : AddrReg) (k : Int) (g : Flag) :
    (s.sum24 v k).2.flag g = s.flag g := by
  simp [State.flag]

/-! ### branch -/

@[simp] theorem State.branch_r (s : State) (k : Int) : (s.branch k).r = s.r := by
  simp [State.branch]
@[simp] theorem State.branch_pc (s : State) (k : Int) : (s.branch k).pc = (s.sum24 s.pc k).1 := by
  simp [State.branch]
@[simp] theorem State.branch_sb (s : State) (k : Int) : (s.branch k).sb = s.sb := by
  simp [State.branch]
@[simp] theorem State.branch_fp (s : State) (k : Int) : (s.branch k).fp = s.fp := by
  simp [State.branch]
@[simp] theorem State.branch_sp0 (s : State) (k : Int) : (s.branch k).sp0 = s.sp0 := by
  simp [State.branch]
@[simp] theorem State.branch_sp1 (s : State) (k : Int) : (s.branch k).sp1 = s.sp1 := by
  simp [State.branch]
@[simp] theorem State.branch_intbase (s : State) (k : Int) : (s.branch k).intbase = s.intbase := by
  simp [State.branch]
@[simp] theorem State.branch_mod (s : State) (k : Int) : (s.branch k).mod = s.mod := by
  simp [State.branch]
@[simp] theorem State.branch_psr (s : State) (k : Int) : (s.branch k).psr = s.psr := by
  simp [State.branch]
@[simp] theorem State.branch_cfg (s : State) (k : Int) : (s.branch k).cfg = s.cfg := by
  simp [State.branch]
@[simp] theorem State.branch_f (s : State) (k : Int) : (s.branch k).f = s.f := by
  simp [State.branch]
@[simp] theorem State.branch_fsr (s : State) (k : Int) : (s.branch k).fsr = s.fsr := by
  simp [State.branch]
@[simp] theorem State.branch_mmu (s : State) (k : Int) : (s.branch k).mmu = s.mmu := by
  simp [State.branch]
@[simp] theorem State.branch_mem (s : State) (k : Int) : (s.branch k).mem = s.mem := by
  simp [State.branch]
@[simp] theorem State.branch_waiting (s : State) (k : Int) : (s.branch k).waiting = s.waiting := by
  simp [State.branch]
@[simp] theorem State.branch_nmiPending (s : State) (k : Int) : (s.branch k).nmiPending = s.nmiPending := by
  simp [State.branch]
@[simp] theorem State.branch_interlock (s : State) (k : Int) : (s.branch k).interlock = s.interlock := by
  simp [State.branch]
@[simp] theorem State.branch_env (s : State) (k : Int) : (s.branch k).env = s.env := by
  simp [State.branch]
@[simp] theorem State.branch_cut (s : State) (k : Int) : (s.branch k).cut = s.cut := by
  simp [State.branch]

/-! ### advance -/

@[simp] theorem State.advance_r (s : State) (i : Instr) : (s.advance i).r = s.r := by
  simp [State.advance]
@[simp] theorem State.advance_pc (s : State) (i : Instr) : (s.advance i).pc = (s.sum24 s.pc (instrLength i)).1 := by
  simp [State.advance]
@[simp] theorem State.advance_sb (s : State) (i : Instr) : (s.advance i).sb = s.sb := by
  simp [State.advance]
@[simp] theorem State.advance_fp (s : State) (i : Instr) : (s.advance i).fp = s.fp := by
  simp [State.advance]
@[simp] theorem State.advance_sp0 (s : State) (i : Instr) : (s.advance i).sp0 = s.sp0 := by
  simp [State.advance]
@[simp] theorem State.advance_sp1 (s : State) (i : Instr) : (s.advance i).sp1 = s.sp1 := by
  simp [State.advance]
@[simp] theorem State.advance_intbase (s : State) (i : Instr) : (s.advance i).intbase = s.intbase := by
  simp [State.advance]
@[simp] theorem State.advance_mod (s : State) (i : Instr) : (s.advance i).mod = s.mod := by
  simp [State.advance]
@[simp] theorem State.advance_psr (s : State) (i : Instr) : (s.advance i).psr = s.psr := by
  simp [State.advance]
@[simp] theorem State.advance_cfg (s : State) (i : Instr) : (s.advance i).cfg = s.cfg := by
  simp [State.advance]
@[simp] theorem State.advance_f (s : State) (i : Instr) : (s.advance i).f = s.f := by
  simp [State.advance]
@[simp] theorem State.advance_fsr (s : State) (i : Instr) : (s.advance i).fsr = s.fsr := by
  simp [State.advance]
@[simp] theorem State.advance_mmu (s : State) (i : Instr) : (s.advance i).mmu = s.mmu := by
  simp [State.advance]
@[simp] theorem State.advance_mem (s : State) (i : Instr) : (s.advance i).mem = s.mem := by
  simp [State.advance]
@[simp] theorem State.advance_waiting (s : State) (i : Instr) : (s.advance i).waiting = s.waiting := by
  simp [State.advance]
@[simp] theorem State.advance_nmiPending (s : State) (i : Instr) : (s.advance i).nmiPending = s.nmiPending := by
  simp [State.advance]
@[simp] theorem State.advance_interlock (s : State) (i : Instr) : (s.advance i).interlock = s.interlock := by
  simp [State.advance]
@[simp] theorem State.advance_env (s : State) (i : Instr) : (s.advance i).env = s.env := by
  simp [State.advance]
@[simp] theorem State.advance_cut (s : State) (i : Instr) : (s.advance i).cut = s.cut := by
  simp [State.advance]

/-! ### addSp -/

@[simp] theorem State.addSp_r (s : State) (k : Int) : (s.addSp k).r = s.r := by
  simp [State.addSp]
@[simp] theorem State.addSp_pc (s : State) (k : Int) : (s.addSp k).pc = s.pc := by
  simp [State.addSp]
@[simp] theorem State.addSp_sb (s : State) (k : Int) : (s.addSp k).sb = s.sb := by
  simp [State.addSp]
@[simp] theorem State.addSp_fp (s : State) (k : Int) : (s.addSp k).fp = s.fp := by
  simp [State.addSp]
@[simp] theorem State.addSp_sp0 (s : State) (k : Int) : (s.addSp k).sp0 = if s.flag .s then s.sp0 else (s.sum24 s.sp k).1 := by
  simp [State.addSp]
@[simp] theorem State.addSp_sp1 (s : State) (k : Int) : (s.addSp k).sp1 = if s.flag .s then (s.sum24 s.sp k).1 else s.sp1 := by
  simp [State.addSp]
@[simp] theorem State.addSp_intbase (s : State) (k : Int) : (s.addSp k).intbase = s.intbase := by
  simp [State.addSp]
@[simp] theorem State.addSp_mod (s : State) (k : Int) : (s.addSp k).mod = s.mod := by
  simp [State.addSp]
@[simp] theorem State.addSp_psr (s : State) (k : Int) : (s.addSp k).psr = s.psr := by
  simp [State.addSp]
@[simp] theorem State.addSp_cfg (s : State) (k : Int) : (s.addSp k).cfg = s.cfg := by
  simp [State.addSp]
@[simp] theorem State.addSp_f (s : State) (k : Int) : (s.addSp k).f = s.f := by
  simp [State.addSp]
@[simp] theorem State.addSp_fsr (s : State) (k : Int) : (s.addSp k).fsr = s.fsr := by
  simp [State.addSp]
@[simp] theorem State.addSp_mmu (s : State) (k : Int) : (s.addSp k).mmu = s.mmu := by
  simp [State.addSp]
@[simp] theorem State.addSp_mem (s : State) (k : Int) : (s.addSp k).mem = s.mem := by
  simp [State.addSp]
@[simp] theorem State.addSp_waiting (s : State) (k : Int) : (s.addSp k).waiting = s.waiting := by
  simp [State.addSp]
@[simp] theorem State.addSp_nmiPending (s : State) (k : Int) : (s.addSp k).nmiPending = s.nmiPending := by
  simp [State.addSp]
@[simp] theorem State.addSp_interlock (s : State) (k : Int) : (s.addSp k).interlock = s.interlock := by
  simp [State.addSp]
@[simp] theorem State.addSp_env (s : State) (k : Int) : (s.addSp k).env = s.env := by
  simp [State.addSp]
@[simp] theorem State.addSp_cut (s : State) (k : Int) : (s.addSp k).cut = s.cut := by
  simp [State.addSp]

/-! ### resetEvent -/

@[simp] theorem State.resetEvent_r (s : State) : s.resetEvent.r = State.reset.r := rfl
@[simp] theorem State.resetEvent_pc (s : State) : s.resetEvent.pc = 0 := rfl
@[simp] theorem State.resetEvent_sb (s : State) : s.resetEvent.sb = State.reset.sb := rfl
@[simp] theorem State.resetEvent_fp (s : State) : s.resetEvent.fp = State.reset.fp := rfl
@[simp] theorem State.resetEvent_sp0 (s : State) : s.resetEvent.sp0 = State.reset.sp0 := rfl
@[simp] theorem State.resetEvent_sp1 (s : State) : s.resetEvent.sp1 = State.reset.sp1 := rfl
@[simp] theorem State.resetEvent_intbase (s : State) : s.resetEvent.intbase = State.reset.intbase := rfl
@[simp] theorem State.resetEvent_mod (s : State) : s.resetEvent.mod = State.reset.mod := rfl
@[simp] theorem State.resetEvent_psr (s : State) : s.resetEvent.psr = 0 := rfl
@[simp] theorem State.resetEvent_cfg (s : State) : s.resetEvent.cfg = State.reset.cfg := rfl
@[simp] theorem State.resetEvent_f (s : State) : s.resetEvent.f = State.reset.f := rfl
@[simp] theorem State.resetEvent_fsr (s : State) : s.resetEvent.fsr = 0 := rfl
@[simp] theorem State.resetEvent_mmu (s : State) : s.resetEvent.mmu = State.reset.mmu := rfl
@[simp] theorem State.resetEvent_mem (s : State) : s.resetEvent.mem = s.mem := rfl
@[simp] theorem State.resetEvent_waiting (s : State) : s.resetEvent.waiting = false := rfl
@[simp] theorem State.resetEvent_nmiPending (s : State) : s.resetEvent.nmiPending = false := rfl
@[simp] theorem State.resetEvent_interlock (s : State) : s.resetEvent.interlock = false := rfl
@[simp] theorem State.resetEvent_env (s : State) : s.resetEvent.env = s.env := rfl
@[simp] theorem State.resetEvent_cut (s : State) : s.resetEvent.cut = .never := rfl
@[simp] theorem State.resetEvent_freeCount (s : State) : s.resetEvent.freeCount = s.freeCount := rfl
@[simp] theorem State.resetEvent_flag (s : State) (k : Flag) : s.resetEvent.flag k = false := by
  show Machine.flag 0 k = false
  cases k <;> decide

/-! ### lateReset -/

/-- Without a Reset still to come the end of a step changes nothing more. -/
@[simp] theorem State.lateReset_none {s : State} (h : s.cut.reset = none) : s.lateReset = s := if_pos h

/-- A Reset still to come is taken at the end of the step. -/
@[simp] theorem State.lateReset_some {s : State} (h : s.cut.reset ≠ none) : s.lateReset = s.resetEvent := if_neg h

/-! ### Flags and the selected stack pointer -/

@[simp] theorem State.setReg_flag (s : State) (k : Fin 8) (v : Dword) (g : Flag) :
    (s.setReg k v).flag g = s.flag g := rfl
@[simp] theorem State.setFReg_flag (s : State) (k : Fin 8) (v : Dword) (g : Flag) :
    (s.setFReg k v).flag g = s.flag g := rfl
@[simp] theorem State.setRegLow_flag (s : State) (k : Fin 8) (n v : Nat) (g : Flag) :
    (s.setRegLow k n v).flag g = s.flag g := rfl
@[simp] theorem State.setSp_flag (s : State) (v : AddrReg) (g : Flag) : (s.setSp v).flag g = s.flag g := by
  simp [State.flag]
@[simp] theorem State.addSp_flag (s : State) (k : Int) (g : Flag) : (s.addSp k).flag g = s.flag g := by
  simp [State.flag]
@[simp] theorem State.branch_flag (s : State) (k : Int) (g : Flag) : (s.branch k).flag g = s.flag g := by
  simp [State.flag]
@[simp] theorem State.advance_flag (s : State) (i : Instr) (g : Flag) : (s.advance i).flag g = s.flag g := by
  simp [State.flag]
@[simp] theorem State.setSp_sp (s : State) (v : AddrReg) : (s.setSp v).sp = v := by
  unfold State.sp State.setSp State.flag; split <;> simp_all



/-- Each flag has a bit of its own. -/
theorem flagBit_inj {j k : Flag} (h : flagBit j = flagBit k) : j = k := by
  cases j <;> cases k <;> first | rfl | exact absurd h (by decide)

/-- Every flag is inside the word. -/
theorem flagBit_lt (k : Flag) : flagBit k < 16 := by cases k <;> decide

/-- A flag just written reads as written. -/
@[simp] theorem flag_putFlag_same (w : Word) (k : Flag) (b : Bool) : flag (putFlag w k b) k = b := by
  unfold flag putFlag; cases b <;> cases k <;> simp [flagBit]

/-- Writing one flag keeps every other. -/
@[simp] theorem flag_putFlag_other (w : Word) {j k : Flag} (b : Bool) (h : j ≠ k) :
    flag (putFlag w k b) j = flag w j := by
  revert h; unfold flag putFlag; cases b <;> cases j <;> cases k <;> simp [flagBit]

end Sys2Proof.Machine
end

