-- ==== Sys2Proof/Laws/Ops.lean ====
section
/-! SUPPORT. What each shared operation over memory, registers and stacks can do, said once. -/
namespace Sys2Proof.Machine

/-! ## Results -/

/-- A result bound to a continuation answers only through both. -/
theorem Res.bind_ok {α β : Type} {x : Res α} {f : α → Res β} {b : β} (h : x >>= f = .ok b) :
    ∃ a, x = .ok a ∧ f a = .ok b := by
  cases x with
  | error e => cases h
  | ok a => exact ⟨a, rfl, h⟩

/-- `finish` answers a next state exactly where the result is one, or Reset has arrived. -/
theorem finish_next {x : Res State} {t : State} :
    finish x = .next t ↔ x = .ok t ∨ ∃ c, x = .error (.reset c) ∧ c.resetEvent = t := by
  rcases x with (f | r | c | c) | s <;> simp [finish]

/-- An entry sequence answers a state exactly where it completes, or Reset ends it. -/
theorem entry_ok {x : Res State} {t : State} :
    entry x = .ok t ↔ x = .ok t ∨ ∃ c, x = .error (.reset c) ∧ c.resetEvent = t := by
  rcases x with (f | r | c | c) | s <;> simp [entry, faultWith]

/-- An entry sequence is never itself aborted (R526; log 35), and takes Reset itself. -/
theorem entry_settled (x : Res State) (c : State) :
    entry x ≠ .error (.abort c) ∧ entry x ≠ .error (.reset c) := by
  rcases x with (f | r | d | d) | s <;> simp [entry, faultWith]

/-- A trap taken inside an instruction is its outcome. -/
theorem State.run_takeException (s0 s : State) (image psr : Word) (v : Nat) (ra : AddrReg) :
    s0.run (s.takeException image psr v ra) = finish (s.takeException image psr v ra) := by
  unfold State.run State.takeException
  generalize h : entry _ = x
  rcases x with (f | r | c | c) | t
  · rfl
  · rfl
  · exact absurd h (entry_settled _ _).1
  · exact absurd h (entry_settled _ _).2
  · rfl

/-- The Abort trap answers an outcome that `finish` keeps. -/
theorem State.abort_settled (s c : State) : s.abort ≠ .error (.reset c) := (entry_settled _ _).2

/-- An instruction answers a next state where it completes, where a reference is aborted and the Abort trap taken, or
where Reset ends it. -/
theorem State.run_next {s t : State} {x : Res State} :
    s.run x = .next t ↔ x = .ok t ∨ (∃ c, x = .error (.abort c) ∧ (s.aborted c).abort = .ok t) ∨
      ∃ c, x = .error (.reset c) ∧ c.resetEvent = t := by
  rcases x with (f | r | c | c) | u <;> simp [State.run, State.settle, finish_next, State.abort_settled]

/-- What an aborted instruction leaves as it was: all but memory, the general registers and the condition flags. -/
theorem State.aborted_frame (s c : State) :
    (s.aborted c).mem = c.mem ∧ (s.aborted c).cut = { abort := none, reset := c.cut.reset } ∧ (s.aborted c).pc = s.pc ∧
      (s.aborted c).psr &&& ~~~conditionFlags = s.psr &&& ~~~conditionFlags ∧ (s.aborted c).fsr = s.fsr ∧
      (s.aborted c).f = s.f ∧ SameStack s (s.aborted c) ∧ SameControl s (s.aborted c) ∧
      ∀ k : Fin 8, (s.aborted c).r[k] = s.r[k] ∨ (s.aborted c).r[k] = c.r[k] := by
  unfold State.aborted
  dsimp only
  split
  · simp [SameStack, SameControl, SameBases, SameSystem]
  · refine ⟨rfl, rfl, rfl, ?_, rfl, rfl, ⟨rfl, rfl⟩, by simp [SameControl, SameBases, SameSystem], ?_⟩
    · ext k hk
      simp only [BitVec.getElem_and, BitVec.getElem_or, BitVec.getElem_not]
      cases conditionFlags[k] <;> simp
    · intro k
      simp only [Fin.getElem_fin, Vector.getElem_ofFn]
      split <;> simp

/-! ## Accesses -/

/-- An access is allowed exactly inside the space and away from the device addresses. -/
theorem checkAccess_ok {a n : Nat} :
    checkAccess a n = .ok () ↔
      a + n ≤ Config.memSize ∧ covers a n Config.ackAddr = false ∧ covers a n Config.nmiAckAddr = false := by
  unfold checkAccess faultWith
  split
  · constructor
    · intro h; cases h
    · intro h; omega
  · split
    · rename_i h1 h2
      constructor
      · intro h; cases h
      · intro h; simp [h.2.1, h.2.2] at h2
    · rename_i h1 h2
      simp only [Bool.or_eq_true, not_or, Bool.not_eq_true] at h2
      exact ⟨fun _ => ⟨by omega, h2.1, h2.2⟩, fun _ => rfl⟩

/-- Where nothing is to come, nothing is once a write is made. -/
@[simp] theorem Cut.wrote_never : Cut.never.wrote = .never := rfl

/-- Where nothing is to come, nothing is once a value is popped. -/
@[simp] theorem Cut.popped_never : Cut.never.popped = .never := rfl

/-- A pop does not count as a write. -/
@[simp] theorem Cut.popped_reset (c : Cut) : c.popped.reset = c.reset := rfl

/-- Without an abort to come no read is aborted. -/
@[simp] theorem State.abortsRead_none {s : State} (h : s.cut = .never) (a n : Nat) : s.abortsRead a n = false := by
  simp [State.abortsRead, h, Cut.never]

/-- Without an abort to come no write is aborted. -/
@[simp] theorem State.abortsWrite_none {s : State} (h : s.cut = .never) : s.abortsWrite = false := by
  simp [State.abortsWrite, h, Cut.never]

/-- Without a Reset to come no write is cut off. -/
@[simp] theorem Cut.reset_never : Cut.never.reset = none := rfl

/-- What a read of a device answers. -/
theorem State.deviceRead_ok {s : State} {a : Nat} {b c : Byte} :
    s.deviceRead a b = .ok c ↔ s.abortsRead a 1 = false ∧ c = b := by
  unfold State.deviceRead
  cases s.abortsRead a 1 <;> simp [eq_comm]

/-- What a memory read answers. -/
theorem State.memRead_ok {s : State} {a : Dword} {n v : Nat} :
    s.memRead a n = .ok v ↔
      s.abortsRead a.toNat n = false ∧ checkAccess a.toNat n = .ok () ∧ v = s.mem.readLE a.toNat n := by
  unfold State.memRead
  cases hr : s.abortsRead a.toNat n <;> cases h : checkAccess a.toNat n <;> simp [bind, Except.bind, eq_comm]

/-- What a memory write answers. -/
theorem State.memWrite_ok {s t : State} {a : Dword} {n v : Nat} :
    s.memWrite a n v = .ok t ↔
      (s.cut.reset ≠ some 0 ∧ s.abortsWrite = false) ∧ checkAccess a.toNat n = .ok () ∧
        t = { s with mem := s.mem.writeLE a.toNat n v, cut := s.cut.wrote } := by
  unfold State.memWrite
  by_cases h0 : s.cut.reset = some 0 <;> cases hr : s.abortsWrite <;> cases h : checkAccess a.toNat n <;>
    simp [h0, bind, Except.bind, eq_comm]

/-- A memory write keeps memory canonical. -/
theorem State.memWrite_wf {s t : State} {a : Dword} {n v : Nat} (h : s.memWrite a n v = .ok t)
    (hw : s.mem.wf = true) : t.mem.wf = true := by
  obtain ⟨-, hc, rfl⟩ := State.memWrite_ok.1 h
  exact Memory.wf_writeLE hw (checkAccess_ok.1 hc).1

/-! ## Registers -/

/-- The low bytes of a merged value are the written ones. -/
theorem mergeLow_mod (old : Dword) {n : Nat} (v : Nat) (hn : n ≤ 4) :
    (mergeLow old n v).toNat % 256 ^ n = v % 256 ^ n := by
  have h := old.isLt
  rcases (by omega : n = 0 ∨ n = 1 ∨ n = 2 ∨ n = 3 ∨ n = 4) with rfl | rfl | rfl | rfl | rfl <;>
    simp only [mergeLow, BitVec.toNat_ofNat] <;> omega

/-- The high bytes of a merged value are the old ones. -/
theorem mergeLow_div (old : Dword) {n : Nat} (v : Nat) (hn : n ≤ 4) :
    (mergeLow old n v).toNat / 256 ^ n = old.toNat / 256 ^ n := by
  have h := old.isLt
  rcases (by omega : n = 0 ∨ n = 1 ∨ n = 2 ∨ n = 3 ∨ n = 4) with rfl | rfl | rfl | rfl | rfl <;>
    simp only [mergeLow, BitVec.toNat_ofNat] <;> omega

/-- The sum of a register and a number, where it is an implemented address. -/
theorem State.sum24_in {s : State} {v : AddrReg} {k : Int} (h0 : 0 ≤ (v.toNat : Int) + k)
    (h1 : (v.toNat : Int) + k < 16777216) :
    s.sum24 v k = (BitVec.ofNat 24 ((v.toNat : Int) + k).toNat, s) := by
  unfold State.sum24
  rw [if_pos ⟨h0, h1⟩]

/-- PC after a branch, where it is an implemented address (R402). -/
theorem State.branch_branched (s : State) (k : Int) : Branched k s (s.branch k) := by
  intro h0 h1
  rw [State.branch_pc, State.sum24_in h0 h1]
  simp only [BitVec.toNat_ofNat]
  omega

/-- PC after an instruction that passes control on (R131). -/
theorem State.advance_next (s : State) (i : Instr) : NextSequential i s (s.advance i) := by
  intro h
  have := State.branch_branched s (instrLength i) (by omega) (by omega)
  unfold State.advance
  omega

/-- The selected stack pointer after a sum, where it is an implemented address. -/
theorem State.addSp_moved (s : State) (k : Int) : StackMoved k s (s.addSp k) := by
  constructor
  · intro h0 h1
    have hv : ((BitVec.ofNat 24 ((s.sp.toNat : Int) + k).toNat).toNat : Int) = s.sp.toNat + k := by
      simp only [BitVec.toNat_ofNat]; omega
    simp only [State.addSp_sp0, State.addSp_sp1, State.sum24_in h0 h1]
    split <;> exact hv
  · simp only [State.addSp_sp0, State.addSp_sp1]
    split <;> rfl

/-! ## Stacks -/

/-- What a push does. -/
theorem State.push_ok {s t : State} {n v : Nat} (h : s.push n v = .ok t) :
    n ≤ s.sp.toNat ∧ checkAccess (s.sp.toNat - n) n = .ok () ∧
      t = { s.setSp (BitVec.ofNat 24 (s.sp.toNat - n)) with
        mem := s.mem.writeLE (s.sp.toNat - n) n v
        cut := s.cut.wrote } := by
  unfold State.push at h
  split at h
  · cases h
  · rename_i hn
    obtain ⟨-, hc, rfl⟩ := State.memWrite_ok.1 h
    have ha : (ext24 (BitVec.ofNat 24 (s.sp.toNat - n))).toNat = s.sp.toNat - n := by
      have := s.sp.isLt
      simp only [ext24, BitVec.toNat_setWidth, BitVec.toNat_ofNat]
      omega
    rw [ha] at hc ⊢
    exact ⟨by omega, hc, by simp⟩

/-- What a pop does. -/
theorem State.pop_ok {s t : State} {n v : Nat} (h : s.pop n = .ok (v, t)) :
    checkAccess s.sp.toNat n = .ok () ∧ v = s.mem.readLE s.sp.toNat n ∧
      t = ({ s with cut := s.cut.popped } : State).addSp n := by
  obtain ⟨w, hw, h⟩ := Res.bind_ok h
  obtain ⟨-, hc, rfl⟩ := State.memRead_ok.1 hw
  have ha : (ext24 s.sp).toNat = s.sp.toNat := by
    have := s.sp.isLt
    simp only [ext24, BitVec.toNat_setWidth]
    omega
  cases h
  rw [ha] at hc ⊢
  exact ⟨hc, rfl, rfl⟩

/-- A push keeps memory canonical. -/
theorem State.push_wf {s t : State} {n v : Nat} (h : s.push n v = .ok t) (hw : s.mem.wf = true) :
    t.mem.wf = true := by
  obtain ⟨-, hc, rfl⟩ := State.push_ok h
  exact Memory.wf_writeLE hw (checkAccess_ok.1 hc).1

/-! ## Modules and exceptions -/

/-- What loading a module changes. -/
theorem State.loadModule_ok {s t : State} {m : Word} (h : s.loadModule m = .ok t) :
    m.toNat < 0xFFF1 ∧ checkAccess m.toNat 4 = .ok () ∧
      t = { s with mod := m, sb := low24 (s.mem.readLE m.toNat 4) } := by
  obtain ⟨a, ha, h⟩ := Res.bind_ok h
  obtain ⟨b, hb, h⟩ := Res.bind_ok h
  unfold moduleAddr at ha
  split at ha
  · cases ha
  · rename_i hm
    cases ha
    have he : (m.setWidth 32).toNat = m.toNat := by
      have := m.isLt
      simp only [BitVec.toNat_setWidth]; omega
    obtain ⟨-, hc, rfl⟩ := State.memRead_ok.1 hb
    rw [he] at hc h
    cases h
    exact ⟨by omega, hc, rfl⟩

/-- What entering a procedure changes: MOD, SB and PC (R411). -/
theorem State.enterProcedure_ok {s t : State} {d : Nat} (h : s.enterProcedure d = .ok t) :
    (d % 65536) < 0xFFF1 ∧
      t = { s with
        mod := BitVec.ofNat 16 d
        sb := low24 (s.mem.readLE (d % 65536) 4)
        pc := low24 (s.mem.readLE (d % 65536 + 8) 4 + d / 65536) } := by
  obtain ⟨s1, h1, h⟩ := Res.bind_ok h
  obtain ⟨hm, hc, rfl⟩ := State.loadModule_ok h1
  obtain ⟨a, ha, h⟩ := Res.bind_ok h
  obtain ⟨b, hb, h⟩ := Res.bind_ok h
  have hd : (BitVec.ofNat 16 d).toNat = d % 65536 := by simp
  rw [hd] at hm
  unfold moduleAddr at ha
  rw [if_neg (by rw [hd]; omega)] at ha
  cases ha
  have he : (BitVec.setWidth 32 (BitVec.ofNat 16 d) + 8#32).toNat = d % 65536 + 8 := by
    simp only [BitVec.toNat_add, BitVec.toNat_setWidth, BitVec.toNat_ofNat]
    omega
  obtain ⟨-, -, rfl⟩ := State.memRead_ok.1 hb
  rw [he] at h
  cases h
  refine ⟨hm, ?_⟩
  simp only [State.goto, hd, BitVec.toNat_ofNat, State.mk.injEq, true_and, and_true]
  unfold low24
  apply BitVec.eq_of_toNat_eq
  simp only [BitVec.toNat_ofNat]
  omega

/-- What taking an exception leaves alone, whichever it is, where Reset does not end it (R519, R501). -/
theorem State.takeException_frame {s t : State} {image psr : Word} {v : Nat} {ra : AddrReg}
    (h : s.takeException image psr v ra = .ok t) :
    (∃ c : State, c.resetEvent = t) ∨ t.r = s.r ∧ t.f = s.f ∧ t.fsr = s.fsr ∧ t.fp = s.fp ∧
      t.intbase = s.intbase ∧ t.cfg = s.cfg ∧ t.mmu = s.mmu ∧ t.psr = psr ∧ t.waiting = s.waiting ∧ t.nmiPending = s.nmiPending ∧ t.interlock = s.interlock ∧
      t.env = s.env ∧ t.freeCount = s.freeCount ∧ (Machine.flag psr .s = false → t.sp1 = s.sp1) ∧
      (s.mem.wf = true → t.mem.wf = true) := by
  rcases entry_ok.1 h with h | ⟨c, -, h⟩
  case inr => exact Or.inl ⟨c, h⟩
  obtain ⟨s1, h1, h⟩ := Res.bind_ok h
  obtain ⟨s2, h2, h⟩ := Res.bind_ok h
  obtain ⟨s3, h3, h⟩ := Res.bind_ok h
  obtain ⟨d, -, h⟩ := Res.bind_ok h
  have w1 := State.push_wf h1
  have w2 := State.push_wf h2
  have w3 := State.push_wf h3
  obtain ⟨-, -, e1⟩ := State.push_ok h1
  obtain ⟨-, -, e2⟩ := State.push_ok h2
  obtain ⟨-, -, e3⟩ := State.push_ok h3
  obtain ⟨-, e4⟩ := State.enterProcedure_ok h
  have hs : ∀ (u : State) (a : AddrReg) (m : Memory) (p : Cut),
      ({ u.setSp a with mem := m, cut := p } : State).flag .s = u.flag .s := by
    intro u a m p; simp [State.flag]
  refine Or.inr ⟨?_, ?_, ?_, ?_, ?_, ?_, ?_, ?_, ?_, ?_, ?_, ?_, ?_, ?_, ?_⟩
  case refine_14 =>
    intro hp
    have f0 : ({ s with psr := psr } : State).flag .s = false := hp
    have f1 : s1.flag .s = false := by rw [e1, hs]; exact f0
    have f2 : s2.flag .s = false := by rw [e2, hs]; exact f1
    rw [e4, e3]
    simp only [State.setSp_sp1, f2]
    rw [e2]; simp only [State.setSp_sp1, f1]
    rw [e1]; simp only [State.setSp_sp1, f0]
    rfl
  case refine_15 =>
    intro hw
    rw [e4]
    exact w3 (w2 (w1 hw))
  all_goals rw [e4, e3, e2, e1]; simp

end Sys2Proof.Machine
end

