-- ==== Sys2Proof/Laws/Operands.lean ====
section
/-! SUPPORT. What each operand access can do, said once, and what the shapes many instructions share complete with. -/
namespace Sys2Proof.Machine

/-! ## Where operands are -/

/-- A located operand is in the register file its class names, or in memory. -/
theorem locate_bank {b : Bank} {s0 s : State} {g : Gen} {l : Loc} (h : locate b s0 s g = .ok l) :
    (∃ k, g = .mode (.reg k) ∧ l = bankLoc b k) ∨ ∃ a, addrOf s0 s g = .ok a ∧ l = .mem a := by
  unfold locate at h
  split at h
  · cases h; exact Or.inl ⟨_, rfl, rfl⟩
  · obtain ⟨a, ha, h⟩ := Res.bind_ok h
    cases h; exact Or.inr ⟨a, ha, rfl⟩

/-- A write operand moves the stack pointer only by Top of Stack (R161). -/
theorem locateWrite_ok {b : Bank} {n : Nat} {s0 s t : State} {g : Gen} {l : Loc}
    (h : locateWrite b n s0 s g = .ok (l, t)) :
    (g = .mode .tos ∧ n ≤ s.sp.toNat ∧ l = .mem (ext24 (BitVec.ofNat 24 (s.sp.toNat - n))) ∧
      t = s.setSp (BitVec.ofNat 24 (s.sp.toNat - n))) ∨
    (g ≠ .mode .tos ∧ locate b s0 s g = .ok l ∧ t = s) := by
  unfold locateWrite at h
  split at h
  · split at h
    · cases h
    · cases h; exact Or.inl ⟨rfl, by omega, rfl, rfl⟩
  · rename_i hg
    obtain ⟨l', hl, h⟩ := Res.bind_ok h
    cases h; exact Or.inr ⟨fun e => hg e, hl, rfl⟩

/-- A read operand moves the stack pointer only by Top of Stack (R160). -/
theorem readOp_ok {b : Bank} {n : Nat} {s0 s t : State} {g : Gen} {v : Nat} (h : readOp b n s0 s g = .ok (v, t)) :
    t = if g = .mode .tos then ({ s with cut := s.cut.popped } : State).addSp n else s := by
  by_cases hg : g = .mode .tos
  · subst hg
    rw [if_pos rfl]
    exact (State.pop_ok h).2.2
  · rw [if_neg hg]
    have other : ∀ x : Res Loc, (x >>= fun l => s.readLoc n l >>= fun w => Except.ok (w, s)) = .ok (v, t) → t = s := by
      intro x hx
      obtain ⟨l, -, hx⟩ := Res.bind_ok hx
      obtain ⟨w, -, hx⟩ := Res.bind_ok hx
      cases hx; rfl
    cases g with
    | imm w => cases h; rfl
    | scaled sc m x => exact other _ h
    | mode m =>
      cases m with
      | tos => exact absurd rfl hg
      | _ => exact other _ h

/-- What a read operand leaves alone. -/
theorem readOp_frame {b : Bank} {n : Nat} {s0 s t : State} {g : Gen} {v : Nat}
    (h : readOp b n s0 s g = .ok (v, t)) :
    t.r = s.r ∧ t.f = s.f ∧ t.mem = s.mem ∧ t.psr = s.psr ∧ t.pc = s.pc ∧ SameControl s t ∧
      (s.cut = .never → t.cut = .never) ∧ (g ≠ .mode .tos → t = s) := by
  rw [readOp_ok h]
  split
  · simp_all [SameControl, SameBases, SameSystem]
  · simp [SameControl, SameBases, SameSystem]

/-- What making room for a write operand leaves alone. -/
theorem locateWrite_frame {b : Bank} {n : Nat} {s0 s t : State} {g : Gen} {l : Loc}
    (h : locateWrite b n s0 s g = .ok (l, t)) :
    t.r = s.r ∧ t.f = s.f ∧ t.mem = s.mem ∧ t.psr = s.psr ∧ t.pc = s.pc ∧ SameControl s t ∧
      t.cut = s.cut ∧ (g ≠ .mode .tos → t = s) := by
  rcases locateWrite_ok h with ⟨rfl, -, -, rfl⟩ | ⟨-, -, rfl⟩
  · simp [SameControl, SameBases, SameSystem]
  · simp [SameControl, SameBases, SameSystem]

/-! ## Reading and writing a location -/

/-- The two registers of a pair. -/
theorem pairOf_ok {k e o : Fin 8} (h : pairOf k = .ok (e, o)) : e = k ∧ o = k + 1 ∧ k.val % 2 = 0 ∧ o ≠ e := by
  revert h; revert k e o; decide

/-- The lengths of operands a location holds: a register file never holds a longer one. -/
def LocFits (n : Nat) : Loc → Prop
  | .gpr _ => n ≤ 4
  | .fpr _ => n = 4 ∨ n = 8
  | .mem _ => True

/-- A located integer of at most four bytes fits its location. -/
theorem locate_fits_int {s0 s : State} {g : Gen} {l : Loc} {n : Nat} (h : locate .int s0 s g = .ok l) (hn : n ≤ 4) :
    LocFits n l := by
  rcases locate_bank h with ⟨k, -, rfl⟩ | ⟨a, -, rfl⟩
  · exact hn
  · trivial

/-- A located floating-point value fits its location. -/
theorem locate_fits_fp {s0 s : State} {g : Gen} {l : Loc} {n : Nat} (h : locate .fp s0 s g = .ok l)
    (hn : n = 4 ∨ n = 8) : LocFits n l := by
  rcases locate_bank h with ⟨k, -, rfl⟩ | ⟨a, -, rfl⟩
  · exact hn
  · trivial

/-- A write operand fits its location. -/
theorem locateWrite_fits {b : Bank} {n : Nat} {s0 s t : State} {g : Gen} {l : Loc}
    (h : locateWrite b n s0 s g = .ok (l, t)) (hi : b = .int → n ≤ 4) (hf : b = .fp → n = 4 ∨ n = 8) :
    LocFits n l := by
  rcases locateWrite_ok h with ⟨-, -, rfl, -⟩ | ⟨-, hl, -⟩
  · trivial
  · cases b with
    | int => exact locate_fits_int hl (hi rfl)
    | fp => exact locate_fits_fp hl (hf rfl)

/-- A location that can be read can be written where no abort is to come: what the write delivers and what it leaves
alone. -/
theorem State.writeLoc_ok {s : State} {n v old : Nat} {l : Loc} (hr : s.readLoc n l = .ok old) (hf : LocFits n l)
    (hw : s.mem.wf = true) (hx : s.cut = .never) :
    ∃ t, s.writeLoc n v l = .ok t ∧ t.readLoc n l = .ok (v % 256 ^ n) ∧ OnlyAt l n s t ∧ t.psr = s.psr ∧
      t.pc = s.pc ∧ SameStack s t ∧ SameControl s t ∧ t.freeCount = s.freeCount ∧ t.mem.wf = true ∧
      t.cut = .never := by
  cases l with
  | gpr k =>
    have hn : n ≤ 4 := hf
    refine ⟨s.setRegLow k n v, rfl, ?_, ?_, ?_⟩
    · simp [State.readLoc, State.regLow, mergeLow_mod _ v hn]
    · refine ⟨?_, ?_, ?_, ?_⟩
      · intro j hj
        simp only [List.mem_singleton] at hj
        simp only [State.setRegLow_r, Fin.getElem_fin]
        rw [Vector.getElem_set_ne]
        intro h; exact hj (Fin.ext h.symm)
      · simp [mergeLow_div _ v hn]
      · intro j _; rfl
      · intro a; rfl
    · simp [SameStack, SameControl, SameBases, SameSystem, hw, hx]
  | fpr k =>
    have ne : ∀ {i j : Fin 8}, j ≠ i → ¬ i.val = j.val := fun h e => h (Fin.ext e.symm)
    by_cases h8 : n = 8
    · subst h8
      simp only [State.readLoc, if_true] at hr
      obtain ⟨⟨e, o⟩, hp, -⟩ := Res.bind_ok hr
      obtain ⟨rfl, rfl, -, hne⟩ := pairOf_ok hp
      refine ⟨(s.setFReg e (BitVec.ofNat 32 v)).setFReg (e + 1) (BitVec.ofNat 32 (v / 4294967296)), ?_, ?_, ?_, ?_⟩
      · simp only [State.writeLoc, if_true, hp]; rfl
      · simp only [State.readLoc, if_true, hp]
        have h1 : ((s.setFReg e (BitVec.ofNat 32 v)).setFReg (e + 1) (BitVec.ofNat 32 (v / 4294967296))).f[e]
            = BitVec.ofNat 32 v := by
          simp only [State.setFReg_f, Fin.getElem_fin]
          rw [Vector.getElem_set_ne _ _ (ne hne.symm), Vector.getElem_set_self]
        have h2 : ((s.setFReg e (BitVec.ofNat 32 v)).setFReg (e + 1) (BitVec.ofNat 32 (v / 4294967296))).f[e + 1]
            = BitVec.ofNat 32 (v / 4294967296) := by
          simp only [State.setFReg_f, Fin.getElem_fin]
          rw [Vector.getElem_set_self]
        show Except.ok _ = _
        rw [h1, h2]
        simp only [BitVec.toNat_ofNat, Except.ok.injEq]
        omega
      · refine ⟨fun j _ => rfl, ?_, fun a => rfl⟩
        intro j hj
        simp only [if_true, List.mem_cons, List.not_mem_nil, or_false, not_or] at hj
        simp only [State.setFReg_f, Fin.getElem_fin]
        rw [Vector.getElem_set_ne _ _ (ne hj.2), Vector.getElem_set_ne _ _ (ne hj.1)]
      · simp [SameStack, SameControl, SameBases, SameSystem, hw, hx]
    · have h4 : n = 4 := by rcases hf with h | h <;> omega
      subst h4
      refine ⟨s.setFReg k (BitVec.ofNat 32 v), by simp [State.writeLoc], ?_, ?_, ?_⟩
      · simp [State.readLoc]
      · refine ⟨fun j _ => rfl, ?_, fun a => rfl⟩
        intro j hj
        simp at hj
        simp only [State.setFReg_f, Fin.getElem_fin]
        rw [Vector.getElem_set_ne _ _ (ne hj)]
      · simp [SameStack, SameControl, SameBases, SameSystem, hw, hx]
  | mem a =>
    obtain ⟨-, hc, -⟩ := State.memRead_ok.1 hr
    have hb := (checkAccess_ok.1 hc).1
    have he : s.cut.wrote = .never := by rw [hx]; rfl
    refine ⟨{ s with mem := s.mem.writeLE a.toNat n v, cut := s.cut.wrote },
      State.memWrite_ok.2 ⟨⟨by simp [hx], State.abortsWrite_none hx⟩, hc, rfl⟩, ?_, ?_, ?_⟩
    · exact State.memRead_ok.2 ⟨State.abortsRead_none he _ _, hc, (Memory.readLE_writeLE hw hb).symm⟩
    · exact ⟨fun j _ => rfl, fun j _ => rfl, fun x hx => Memory.read_writeLE_outside hw hb hx⟩
    · simp [SameStack, SameControl, SameBases, SameSystem, Memory.wf_writeLE hw hb, hx]

/-- Where no abort is to come, reads depend on registers and memory only. -/
theorem State.readLoc_congr {s t : State} (hr : t.r = s.r) (hf : t.f = s.f) (hm : t.mem = s.mem)
    (hs : s.cut = .never) (ht : t.cut = .never) (n : Nat) (l : Loc) : t.readLoc n l = s.readLoc n l := by
  cases l <;> simp [State.readLoc, State.regLow, State.memRead, hr, hf, hm, hs, ht]

/-- The value at a location fits its length. -/
theorem State.readLoc_lt {s : State} {n v : Nat} {l : Loc} (h : s.readLoc n l = .ok v) (hf : LocFits n l) :
    v < 256 ^ n := by
  cases l with
  | gpr k => cases h; exact Nat.mod_lt _ (Nat.pow_pos (by omega))
  | fpr k =>
    unfold State.readLoc at h
    dsimp only at h
    split at h
    · rename_i h8
      subst h8
      obtain ⟨⟨e, o⟩, -, h⟩ := Res.bind_ok h
      have h1 := s.f[e].isLt
      have h2 := s.f[o].isLt
      cases h
      omega
    · rename_i h8
      have h4 : n = 4 := by rcases hf with h | h <;> omega
      subst h4
      cases h
      exact s.f[k].isLt
  | mem a =>
    obtain ⟨-, -, rfl⟩ := State.memRead_ok.1 h
    exact Memory.readLE_lt _ _ _

/-- The value of a read operand fits its length. -/
theorem readOp_lt {b : Bank} {n : Nat} {s0 s t : State} {g : Gen} {v : Nat} (h : readOp b n s0 s g = .ok (v, t))
    (hi : b = .int → n ≤ 4) (hf : b = .fp → n = 4 ∨ n = 8) : v < 256 ^ n := by
  have other : ∀ x : Res Loc, (∀ l, x = .ok l → LocFits n l) →
      (x >>= fun l => s.readLoc n l >>= fun w => Except.ok (w, s)) = .ok (v, t) → v < 256 ^ n := by
    intro x hl hx
    obtain ⟨l, h1, hx⟩ := Res.bind_ok hx
    obtain ⟨w, h2, hx⟩ := Res.bind_ok hx
    cases hx
    exact State.readLoc_lt h2 (hl l h1)
  have fits : ∀ l, locate b s0 s g = .ok l → LocFits n l := by
    intro l hl
    cases b with
    | int => exact locate_fits_int hl (hi rfl)
    | fp => exact locate_fits_fp hl (hf rfl)
  cases g with
  | imm w => cases h; exact Nat.mod_lt _ (Nat.pow_pos (by omega))
  | scaled sc m x => exact other _ fits h
  | mode m =>
    cases m with
    | tos =>
      obtain ⟨-, rfl, -⟩ := State.pop_ok h
      exact Memory.readLE_lt _ _ _
    | _ => exact other _ fits h

/-- Writing a location keeps memory canonical and the reserved bits of PSR and FSR. -/
theorem State.writeLoc_frame {s t : State} {n v : Nat} {l : Loc} (h : s.writeLoc n v l = .ok t) :
    t.psr = s.psr ∧ t.fsr = s.fsr ∧ t.pc = s.pc ∧ SameStack s t ∧ SameControl s t ∧
      (s.mem.wf = true → t.mem.wf = true) := by
  cases l with
  | gpr k => cases h; simp [SameStack, SameControl, SameBases, SameSystem]
  | fpr k =>
    unfold State.writeLoc at h
    dsimp only at h
    split at h
    · obtain ⟨⟨e, o⟩, -, h⟩ := Res.bind_ok h
      cases h; simp [SameStack, SameControl, SameBases, SameSystem]
    · cases h; simp [SameStack, SameControl, SameBases, SameSystem]
  | mem a =>
    have hw := State.memWrite_wf h
    obtain ⟨-, -, rfl⟩ := State.memWrite_ok.1 h
    exact ⟨rfl, rfl, rfl, ⟨rfl, rfl⟩, by simp [SameControl, SameBases, SameSystem], hw⟩

/-- Where a location can be written, it can be with PSR updated first. -/
theorem State.deliver_ok {s t : State} {n v : Nat} {l : Loc} (w : Word) (h : s.writeLoc n v l = .ok t) :
    s.deliver w n v l = .ok { t with psr := w } := by
  unfold State.deliver
  cases l with
  | gpr k => cases h; rfl
  | fpr k =>
    by_cases hn : n = 8
    · simp only [State.writeLoc, if_pos hn] at h ⊢
      obtain ⟨⟨e, o⟩, hp, h⟩ := Res.bind_ok h
      cases h
      rw [hp]
      rfl
    · simp only [State.writeLoc, if_neg hn] at h ⊢
      cases h
      rfl
  | mem a =>
    obtain ⟨hc, ha, rfl⟩ := State.memWrite_ok.1 h
    exact State.memWrite_ok.2 ⟨hc, ha, rfl⟩

/-! ## The shapes many instructions share -/

/-- `src read, dest rmw` completes wherever both operands can be read and no abort is to come. -/
theorem rmwShape_ok {ns nd : Nat} {i : Instr} {src dst : Gen} {f : Nat → Nat → Word → Nat × Word} {s s1 : State}
    {a d : Nat} {l : Loc} (hw : s.mem.wf = true) (hx : s.cut = .never) (hn : nd ≤ 4) (ha : readOp .int ns s s src = .ok (a, s1))
    (hl : locate .int s s1 dst = .ok l) (hd : s1.readLoc nd l = .ok d) :
    ∃ t, rmwShape ns nd i src dst f s = .ok t ∧ t.readLoc nd l = .ok ((f a d s.psr).1 % 256 ^ nd) ∧
      t.psr = (f a d s.psr).2 ∧ OnlyAt l nd s1 t ∧ SameStack s1 t ∧ SameControl s1 t ∧ NextSequential i s t := by
  obtain ⟨-, -, hm, -, hpc, -, hq, -⟩ := readOp_frame ha
  obtain ⟨s2, h2, hv, ho, -, hp2, hs, hc, -, -, hy⟩ :=
    State.writeLoc_ok (v := (f a d s.psr).1) hd (locate_fits_int hl hn) (by rw [hm]; exact hw) (hq hx)
  refine ⟨({ s2 with psr := (f a d s.psr).2 } : State).advance i, ?_, ?_, ?_, ?_, ?_, ?_, ?_⟩
  · simp only [rmwShape, ha, bind, Except.bind, hl, hd, State.deliver_ok _ h2]
  · rw [← hv]; exact State.readLoc_congr (by simp) (by simp) (by simp) hy (by simp [hy]) _ _
  · simp
  · cases l <;> simpa [OnlyAt, SameRegs, SameFpRegs, SameMemory, SameOutside] using ho
  · simpa [SameStack] using hs
  · simpa [SameControl, SameBases, SameSystem] using hc
  · intro h
    have := State.advance_next ({ s2 with psr := (f a d s.psr).2 } : State) i (by simpa [hp2, hpc] using h)
    simpa [hp2, hpc] using this

/-- `src read, dest write` completes wherever both operands can be accessed and no abort is to come. -/
theorem moveShape_ok {bs bd : Bank} {ns nd : Nat} {i : Instr} {src dst : Gen} {f : Nat → Word → Nat × Word}
    {s s1 s2 : State} {a old : Nat} {l : Loc} (hw : s.mem.wf = true) (hx : s.cut = .never) (hi : bd = .int → nd ≤ 4)
    (hf : bd = .fp → nd = 4 ∨ nd = 8) (ha : readOp bs ns s s src = .ok (a, s1))
    (hl : locateWrite bd nd s s1 dst = .ok (l, s2)) (hd : s2.readLoc nd l = .ok old) :
    ∃ t, moveShape bs bd ns nd i src dst f s = .ok t ∧ t.readLoc nd l = .ok ((f a s.psr).1 % 256 ^ nd) ∧
      t.psr = (f a s.psr).2 ∧ OnlyAt l nd s2 t ∧ SameStack s2 t ∧ SameControl s2 t ∧ NextSequential i s t := by
  obtain ⟨-, -, hm, -, hpc, -, hq, -⟩ := readOp_frame ha
  obtain ⟨-, -, hm', -, hpc', -, hq', -⟩ := locateWrite_frame hl
  obtain ⟨s3, h3, hv, ho, -, hp3, hs, hc, -, -, hy⟩ :=
    State.writeLoc_ok (v := (f a s.psr).1) hd (locateWrite_fits hl hi hf) (by rw [hm', hm]; exact hw)
      (hq'.trans (hq hx))
  refine ⟨({ s3 with psr := (f a s.psr).2 } : State).advance i, ?_, ?_, ?_, ?_, ?_, ?_, ?_⟩
  · simp only [moveShape, ha, bind, Except.bind, hl, State.deliver_ok _ h3]
  · rw [← hv]; exact State.readLoc_congr (by simp) (by simp) (by simp) hy (by simp [hy]) _ _
  · simp
  · cases l <;> simpa [OnlyAt, SameRegs, SameFpRegs, SameMemory, SameOutside] using ho
  · simpa [SameStack] using hs
  · simpa [SameControl, SameBases, SameSystem] using hc
  · intro h
    have := State.advance_next ({ s3 with psr := (f a s.psr).2 } : State) i (by simpa [hp3, hpc', hpc] using h)
    simpa [hp3, hpc', hpc] using this

/-- A comparison completes wherever both operands can be read. -/
theorem compareShape_ok {n : Nat} {i : Instr} {src1 src2 : Gen} {f : Nat → Nat → Word → Word} {s s1 s2 : State}
    {a b : Nat} (ha : readOp .int n s s src1 = .ok (a, s1)) (hb : readOp .int n s s1 src2 = .ok (b, s2)) :
    ∃ t, compareShape n i src1 src2 f s = .ok t ∧ t.psr = f a b s.psr ∧ SameData s2 t ∧ NextSequential i s t := by
  obtain ⟨-, -, -, -, hpc, -, -, -⟩ := readOp_frame ha
  obtain ⟨-, -, -, -, hpc', -, -, -⟩ := readOp_frame hb
  refine ⟨({ s2 with psr := f a b s.psr } : State).advance i, ?_, by simp, ?_, ?_⟩
  · simp only [compareShape, ha, hb, bind, Except.bind]
  · simp [SameData, SameRegs, SameFpRegs, SameMemory, SameStack, SameControl, SameBases, SameSystem]
  · intro h
    have := State.advance_next ({ s2 with psr := f a b s.psr } : State) i (by simpa [hpc', hpc] using h)
    simpa [hpc', hpc] using this

end Sys2Proof.Machine
end

