-- ==== Sys2Proof/Tests/Slice0.lean ====
section
/-! SUPPORT. Tests: ill-formed terms are refused, the examples of spec/40 to 49 decode to the instructions they stand
for, single steps give the results spec/ prints, and every statement's hypotheses are met together somewhere. -/
namespace Sys2Proof.Tests

open Sys2Proof Sys2Proof.Machine

/-! ## Terms that no encoding gives -/

/-- 16,777,216 is the first displacement out of range (R140, U4). -/
theorem test_wf_displacement :
    Instr.wf (.br (.d4 16777216)) = false ∧ Instr.wf (.br (.d4 16777215)) = true ∧
      Instr.wf (.br (.d4 (-16777216))) = false ∧ Instr.wf (.br (.d4 (-16777215))) = true := by decide

/-- Both displacements of a mode, and that of a basemode, are checked. -/
theorem test_wf_inner_displacement :
    Instr.wf (.jump (.mode (.frameRel (.d1 0) (.d4 16777216)))) = false ∧
      Instr.wf (.jump (.mode (.ext (.d4 16777216) (.d1 0)))) = false ∧
      Instr.wf (.jump (.scaled .b (.absolute (.d4 16777216)) 0)) = false ∧
      Instr.wf (.acbi .b 1 (.mode (.reg 0)) (.d4 16777216)) = false := by decide

/-- An immediate is as long as its operand (R141). -/
theorem test_wf_immediate_length :
    Instr.wf (.addi .b (.imm 256) (.mode (.reg 0))) = false ∧ Instr.wf (.addi .b (.imm 255) (.mode (.reg 0))) = true ∧
      Instr.wf (.ashi .d (.imm 256) (.mode (.reg 0))) = false := by decide

/-- An immediate is no destination, no address and no base (R148, U6). -/
theorem test_wf_immediate_class :
    Instr.wf (.addi .b (.imm 1) (.imm 1)) = false ∧ Instr.wf (.jump (.imm 1)) = false ∧
      Instr.wf (.tbiti .b (.imm 1) (.imm 1)) = false := by decide

/-- BICPSR, BISPSR, MOVXiD and MOVZiD have no double-word form (U11). -/
theorem test_wf_short :
    Instr.wf (.bicpsri .d (.imm 1)) = false ∧ Instr.wf (.bispsri .d (.imm 1)) = false ∧
      Instr.wf (.movxid .d (.mode (.reg 0)) (.mode (.reg 0))) = false ∧
      Instr.wf (.movzid .d (.mode (.reg 0)) (.mode (.reg 0))) = false := by decide

/-- The words of LXPD are LXPD's alone (R441; log 20). -/
theorem test_wf_lxpd :
    Instr.wf (.addr (.mode (.ext (.d1 3) (.d1 0))) (.mode .tos)) = false ∧
      Instr.wf (.lxpd (.d1 3) (.d1 0) (.mode .tos)) = true ∧
      Instr.wf (.lxpd (.d1 3) (.d1 1) (.mode .tos)) = false := by decide

/-! ## Decoding: one example of spec/ for each instruction -/

/-- The bytes are the instruction and nothing more. -/
def decodesTo (p : List Byte × Instr) : Bool :=
  match decode p.1 with
  | .ok (i, []) => decide (i = p.2)
  | _ => false

/-- F-1: the examples of R409 to R446 and R456 to R458. -/
theorem test_decode_f1 : [
    ([0x02, 0x10], Instr.bsr (.d1 16)),
    ([0x12, 0x10], .ret (.d1 16)),
    ([0x22, 0x01], .cxp (.d1 1)),
    ([0x32, 0x10], .rxp (.d1 16)),
    ([0x42, 0x10], .rett (.d1 16)),
    ([0x52], .reti),
    ([0x62, 0x85], .save 0x85),
    ([0x72, 0xA1], .restore 0xA1),
    ([0x82, 0x85, 0x10], .enter 0x85 (.d1 16)),
    ([0x92, 0xA1], .exit 0xA1),
    ([0xA2], .nop),
    ([0xB2], .wait),
    ([0xC2], .dia),
    ([0xD2], .flag),
    ([0xE2], .svc),
    ([0xF2], .bpt)].all decodesTo = true := by decide

/-- F-Bcond: the condition codes of R401 with the displacement of the BNE example; BLO's example has two bytes of
displacement. -/
theorem test_decode_bcond : [
    ([0x0A, 0x0A], Instr.beq (.d1 10)),
    ([0x1A, 0x0A], .bne (.d1 10)),
    ([0x2A, 0x0A], .bcs (.d1 10)),
    ([0x3A, 0x0A], .bcc (.d1 10)),
    ([0x4A, 0x0A], .bhi (.d1 10)),
    ([0x5A, 0x0A], .bls (.d1 10)),
    ([0x6A, 0x0A], .bgt (.d1 10)),
    ([0x7A, 0x0A], .ble (.d1 10)),
    ([0x8A, 0x0A], .bfs (.d1 10)),
    ([0x9A, 0x0A], .bfc (.d1 10)),
    ([0xAA, 0xBF, 0x66], .blo (.d2 (-154))),
    ([0xBA, 0x0A], .bhs (.d1 10)),
    ([0xCA, 0x0A], .blt (.d1 10)),
    ([0xDA, 0x0A], .bge (.d1 10)),
    ([0xEA, 0x0A], .br (.d1 10))].all decodesTo = true := by decide

/-- F-GQ: the examples of R211, R230, R451, R407, R225, R450 and R311, and the condition codes of R401. -/
theorem test_decode_gq : [
    ([0x0C, 0x04], Instr.addqi .b (-8) (.mode (.reg 0))),
    ([0x1C, 0x04], .cmpqi .b (-8) (.mode (.reg 0))),
    ([0xAD, 0xD7, 0x04], .spri .w .mod (.mode (.static (.d1 4)))),
    ([0xCC, 0x07, 0x7D], .acbi .b (-1) (.mode (.reg 0)) (.d1 (-3))),
    ([0xDD, 0xBB], .movqi .w 7 (.mode .tos)),
    ([0x6F, 0x04], .lpri .d .fp (.mode (.reg 0))),
    ([0x3C, 0x00], .seqi .b (.mode (.reg 0))),
    ([0xBC, 0x00], .snei .b (.mode (.reg 0))),
    ([0x3C, 0x01], .scsi .b (.mode (.reg 0))),
    ([0xBC, 0x01], .scci .b (.mode (.reg 0))),
    ([0x3F, 0xBA], .shii .d (.mode .tos)),
    ([0xBC, 0x02], .slsi .b (.mode (.reg 0))),
    ([0x3C, 0x03], .sgti .b (.mode (.reg 0))),
    ([0xBC, 0x03], .slei .b (.mode (.reg 0))),
    ([0x3C, 0x04], .sfsi .b (.mode (.reg 0))),
    ([0xBC, 0x04], .sfci .b (.mode (.reg 0))),
    ([0x3D, 0xD5, 0x0A], .sloi .w (.mode (.static (.d1 10)))),
    ([0xBC, 0x05], .shsi .b (.mode (.reg 0))),
    ([0x3C, 0x06], .slti .b (.mode (.reg 0))),
    ([0xBC, 0x06], .sgei .b (.mode (.reg 0)))].all decodesTo = true := by decide

/-- F-G: the examples of R403, R406, R408, R412 and R447 to R449. -/
theorem test_decode_g : [
    ([0x7F, 0xD0, 0x08], Instr.cxpd (.mode (.static (.d1 8)))),
    ([0x7C, 0xA1, 0xA2], .bicpsri .b (.imm 0xA2)),
    ([0x7F, 0x82, 0x78, 0x00], .jump (.mode (.frameRel (.d1 (-8)) (.d1 0)))),
    ([0x7C, 0xA3, 0xA2], .bispsri .b (.imm 0xA2)),
    ([0x7F, 0xC5, 0x7C], .adjspi .d (.mode (.frame (.d1 (-4))))),
    ([0x7F, 0x96, 0x04, 0x00], .jsr (.mode (.staticRel (.d1 4) (.d1 0)))),
    ([0x7C, 0xE7, 0xDF, 0x04], .casei .b (.scaled .b (.program (.d1 4)) 7))].all decodesTo = true := by decide

/-- F-GG: the examples of R210 to R214, R224, R229, R302 to R305, R331, R440 and R441. -/
theorem test_decode_gg : [
    ([0x03, 0xD6, 0x04, 0x7C], Instr.addi .d (.mode (.static (.d1 4))) (.mode (.frame (.d1 (-4))))),
    ([0x04, 0xD2, 0x07, 0x04], .cmpi .b (.mode (.static (.d1 7))) (.mode (.regRel 0 (.d1 4)))),
    ([0x88, 0x06, 0x03], .bici .b (.mode (.reg 0)) (.mode (.static (.d1 3)))),
    ([0x10, 0xA0, 0x20], .addci .b (.imm 32) (.mode (.reg 0))),
    ([0x97, 0x06, 0x08], .movi .d (.mode (.reg 0)) (.mode (.static (.d1 8)))),
    ([0x98, 0xC6, 0x7A, 0x0B], .ori .b (.mode (.frame (.d1 (-6)))) (.mode (.static (.d1 11)))),
    ([0xA3, 0xD6, 0x04, 0x14], .subi .d (.mode (.static (.d1 4))) (.mode (.static (.d1 20)))),
    ([0x27, 0xC0, 0x04], .addr (.mode (.frame (.d1 4))) (.mode (.reg 0))),
    ([0xE7, 0xB5, 0x03, 0x00], .lxpd (.d1 3) (.d1 0) (.mode .tos)),
    ([0x68, 0x00], .andi .b (.mode (.reg 0)) (.mode (.reg 1))),
    ([0x31, 0xBE, 0x78], .subci .w (.mode .tos) (.mode (.frame (.d1 (-8))))),
    ([0x75, 0x02, 0x00], .tbiti .w (.mode (.reg 0)) (.mode (.regRel 1 (.d1 0)))),
    ([0x38, 0xC6, 0x78, 0x7C], .xori .b (.mode (.frame (.d1 (-8)))) (.mode (.frame (.d1 (-4)))))].all decodesTo
      = true := by decide

/-- F-0E: the examples of R365 to R370 and R456. -/
theorem test_decode_0e : [
    ([0x0E, 0x03, 0x06], Instr.movsi .d ⟨false, .until⟩),
    ([0x0E, 0x01, 0x01], .movsi .w ⟨true, .none⟩),
    ([0x0E, 0x80, 0x00], .movst ⟨false, .none⟩),
    ([0x0E, 0x04, 0x00], .cmpsi .b ⟨false, .none⟩),
    ([0x0E, 0x84, 0x07], .cmpst ⟨true, .until⟩),
    ([0x0E, 0x8B, 0x03], .setcfg 0b0111),
    ([0x0E, 0x0C, 0x06], .skpsi .b ⟨false, .until⟩),
    ([0x0E, 0x8C, 0x06], .skpst ⟨false, .until⟩)].all decodesTo = true := by decide

/-- F-4E: the examples of R215, R216, R242, R243, R306 to R310 and R332 to R336. -/
theorem test_decode_4e : [
    ([0x4E, 0x40, 0xA6, 0xFD, 0x10], Instr.roti .b (.imm 0xFD) (.mode (.stack (.d1 16)))),
    ([0x4E, 0x84, 0xBE, 0x10], .ashi .b (.mode .tos) (.mode (.static (.d1 16)))),
    ([0x4E, 0x49, 0x02, 0x00], .cbiti .w (.mode (.reg 0)) (.mode (.regRel 1 (.d1 0)))),
    ([0x4E, 0x4D, 0x02, 0x00], .cbitii .w (.mode (.reg 0)) (.mode (.regRel 1 (.d1 0)))),
    ([0x4E, 0x94, 0xA6, 0x04, 0x08], .lshi .b (.imm 4) (.mode (.static (.d1 8)))),
    ([0x4E, 0x59, 0x02, 0x01], .sbiti .w (.mode (.reg 0)) (.mode (.regRel 1 (.d1 1)))),
    ([0x4E, 0x5D, 0x02, 0x01], .sbitii .w (.mode (.reg 0)) (.mode (.regRel 1 (.d1 1)))),
    ([0x4E, 0xA0, 0x29], .negi .b (.mode (.reg 5)) (.mode (.reg 6))),
    ([0x4E, 0xE5, 0x4D, 0x0A], .noti .w (.mode (.regRel 1 (.d1 10))) (.mode .tos)),
    ([0x4E, 0x2C, 0xC6, 0x78, 0x10], .subpi .b (.mode (.frame (.d1 (-8)))) (.mode (.frame (.d1 16)))),
    ([0x4E, 0xF3, 0xC9, 0x08], .absi .d (.mode (.stack (.d1 8))) (.mode (.reg 7))),
    ([0x4E, 0x34, 0x06, 0x7C], .comi .b (.mode (.reg 0)) (.mode (.frame (.d1 (-4))))),
    ([0x4E, 0x79, 0x02, 0x01], .ibiti .w (.mode (.reg 0)) (.mode (.regRel 1 (.d1 1)))),
    ([0x4E, 0xFC, 0xD5, 0x05], .addpi .b (.mode (.static (.d1 5))) (.mode .tos))].all decodesTo = true := by decide

/-- The 2E group: the examples of R337, R338, R343, R344, R384, R385, R485 and R486. -/
theorem test_decode_2e : [
    ([0x2E, 0x81, 0x48, 0x00, 0x07], Instr.exti .w 0 (.mode (.regRel 1 (.d1 0))) (.mode (.reg 2)) (.d1 7)),
    ([0x2E, 0x04, 0xD6, 0x14, 0x7C], .indexi .b 0 (.mode (.static (.d1 20))) (.mode (.frame (.d1 (-4))))),
    ([0x6E, 0x83, 0xD0, 0x20], .cvtp 0 (.mode (.static (.d1 32))) (.mode (.reg 2))),
    ([0x6E, 0xC4, 0xC5, 0x7C], .ffsi .b (.mode (.frame (.d1 (-4)))) (.mode .tos)),
    ([0xAE, 0x41, 0x12, 0x00, 0x07], .insi .w 0 (.mode (.reg 2)) (.mode (.regRel 1 (.d1 0))) (.d1 7)),
    ([0xAE, 0x8C, 0xCE, 0x05, 0x09], .movsui .b (.mode (.stack (.d1 5))) (.mode (.static (.d1 9)))),
    ([0xAE, 0x5C, 0xD6, 0x09, 0x05], .movusi .b (.mode (.static (.d1 9))) (.mode (.stack (.d1 5)))),
    ([0xEE, 0x80, 0xD0, 0x04], .checki .b 0 (.mode (.static (.d1 4))) (.mode (.reg 2)))].all decodesTo
      = true := by decide

/-- F-CE: the examples of R217 to R223, R226 to R231, R345, R347, R382 and R383. -/
theorem test_decode_ce : [
    ([0xCE, 0x41, 0x42, 0x0A, 0x10, 0x06],
      Instr.movmi .w (.mode (.regRel 0 (.d1 10))) (.mode (.regRel 1 (.d1 16))) (.d1 6)),
    ([0xCE, 0x45, 0x42, 0x0A, 0x10, 0x06],
      .cmpmi .w (.mode (.regRel 0 (.d1 10))) (.mode (.regRel 1 (.d1 16))) (.d1 6)),
    ([0xCE, 0x89, 0x16, 0x10, 0x86], .inssi .w (.mode (.reg 2)) (.mode (.static (.d1 16))) 4 6),
    ([0xCE, 0x8D, 0xD0, 0x10, 0x86], .extsi .w (.mode (.static (.d1 16))) (.mode (.reg 2)) 4 6),
    ([0xCE, 0x10, 0xD0, 0x02], .movxbw (.mode (.static (.d1 2))) (.mode (.reg 0))),
    ([0xCE, 0x14, 0xC0, 0x7C], .movzbw (.mode (.frame (.d1 (-4)))) (.mode (.reg 0))),
    ([0xCE, 0x19, 0x08], .movzid .w (.mode (.reg 1)) (.mode (.reg 0))),
    ([0xCE, 0x1D, 0x08], .movxid .w (.mode (.reg 1)) (.mode (.reg 0))),
    ([0xCE, 0x21, 0xA0, 0x00, 0x05], .muli .w (.imm 5) (.mode (.reg 0))),
    ([0xCE, 0xA5, 0x16, 0x0A], .meii .w (.mode (.reg 2)) (.mode (.static (.d1 10)))),
    ([0xCE, 0x2D, 0x10], .deii .w (.mode (.reg 2)) (.mode (.reg 0))),
    ([0xCE, 0xB1, 0xD6, 0x04, 0x08], .quoi .w (.mode (.static (.d1 4))) (.mode (.static (.d1 8)))),
    ([0xCE, 0xB4, 0xD6, 0x04, 0x08], .remi .b (.mode (.static (.d1 4))) (.mode (.static (.d1 8)))),
    ([0xCE, 0xB8, 0xD6, 0x04, 0x08], .modi .b (.mode (.static (.d1 4))) (.mode (.static (.d1 8)))),
    ([0xCE, 0xBF, 0xC6, 0x7A, 0x0C], .divi .d (.mode (.frame (.d1 (-6)))) (.mode (.static (.d1 12))))].all decodesTo
      = true := by decide

/-- F-1E: the examples of R482 to R484 and R487. -/
theorem test_decode_1e : [
    ([0x1E, 0x03, 0x40, 0x82, 0x00], Instr.rdval (.mode (.regRel 0 (.d2 512)))),
    ([0x1E, 0x07, 0x40, 0x82, 0x00], .wrval (.mode (.regRel 0 (.d2 512)))),
    ([0x1E, 0x8B, 0x05], .lmr .bcnt (.mode (.reg 0))),
    ([0x1E, 0x8F, 0x05], .smr .bcnt (.mode (.reg 0)))].all decodesTo = true := by decide

/-- F-3E and F-BE: the examples of R270 to R286; the two unassigned codes as their patterns have them. -/
theorem test_decode_fp : [
    ([0x3E, 0x83, 0xD0, 0x10], Instr.movif .d .double (.mode (.static (.d1 16))) (.mode (.reg 2))),
    ([0x3E, 0x0F, 0x00], .lfsr (.mode (.reg 0))),
    ([0x3E, 0x96, 0x06, 0x0C], .movlf (.mode (.reg 0)) (.mode (.static (.d1 12)))),
    ([0x3E, 0x1B, 0xD0, 0x08], .movfl (.mode (.static (.d1 8))) (.mode (.reg 0))),
    ([0x3E, 0xA3, 0x16, 0x0C], .roundfi .double .d (.mode (.reg 2)) (.mode (.static (.d1 12)))),
    ([0x3E, 0x2C, 0x00], .truncfi .single .b (.mode (.reg 0)) (.mode (.reg 0))),
    ([0x3E, 0xF7, 0x05], .sfsr (.mode .tos)),
    ([0x3E, 0xBB, 0x16, 0x10], .floorfi .double .d (.mode (.reg 2)) (.mode (.static (.d1 16)))),
    ([0xBE, 0x80, 0x16, 0x10], .addf .double (.mode (.reg 2)) (.mode (.static (.d1 16)))),
    ([0xBE, 0x85, 0x06, 0x08], .movf .single (.mode (.reg 0)) (.mode (.static (.d1 8)))),
    ([0xBE, 0x89, 0x00], .cmpf .single (.mode (.reg 0)) (.mode (.reg 2))),
    ([0xBE, 0xD1, 0x01], .subf .single (.mode (.reg 0)) (.mode (.reg 7))),
    ([0xBE, 0x95, 0x00], .negf .single (.mode (.reg 0)) (.mode (.reg 2))),
    ([0xBE, 0xA0, 0xC6, 0x78, 0x10], .divf .double (.mode (.frame (.d1 (-8)))) (.mode (.static (.d1 16)))),
    ([0xBE, 0xF1, 0x01], .mulf .single (.mode (.reg 0)) (.mode (.reg 7))),
    ([0xBE, 0xB5, 0x00], .absf .single (.mode (.reg 0)) (.mode (.reg 2))),
    ([0xBE, 0x4F, 0x80], .fpuIllegal0011 0b1000000001 3),
    ([0xBE, 0x25, 0x00], .fpuIllegal1001 0 1)].all decodesTo = true := by decide

/-- The custom first bytes (R184). -/
theorem test_decode_custom :
    [([0x16], Instr.custom16), ([0x36], .custom36), ([0xB6], .customB6)].all decodesTo = true := by decide

/-- Encodings that are no instruction: an unassigned first byte (D7), an immediate destination (U6), a truncated
displacement. -/
theorem test_decode_refuses :
    (decode [0x06, 0, 0]).isOk = false ∧ (decode [0x00, 0x05, 0, 0]).isOk = false ∧ (decode [0x0A]).isOk = false ∧
      (decode []).isOk = false := by decide


/-! ## Single steps: the examples of spec/40 to 49 -/

/-- After Reset with some registers set. -/
def withRegs (l : List (Fin 8 × Dword)) : State := l.foldl (fun s p => s.setReg p.1 p.2) State.reset

/-- With bytes of memory set. -/
def poke (a : Nat) (bs : List Byte) (s : State) : State := { s with mem := s.mem.writeBytes a bs }

/-- With a floating-point register set. -/
def withFs (l : List (Fin 8 × Dword)) : State := l.foldl (fun s p => s.setFReg p.1 p.2) State.reset

/-- With flags set. -/
def withFlags (l : List Flag) (s : State) : State := l.foldl (fun s k => s.setFlag k true) s

/-- An abort of one reference. -/
def aborts (p : AbortPoint) : Cut := { abort := some p, reset := none }

/-- A Reset after so many writes. -/
def resets (k : Nat) : Cut := { abort := none, reset := some k }

/-- A state in whose step this is to come. -/
def cutBy (c : Cut) (s : State) : State := { s with cut := c }

/-- The instruction completes in a state of which `p` holds. -/
def after (o : Host.Outcome State Fault Refusal) (p : State → Bool) : Bool :=
  match o with
  | .next t => p t
  | _ => false

/-- Register mode. -/
abbrev rg (k : Fin 8) : Gen := .mode (.reg k)

/-- Static Memory mode: SB is 0x1000 after Reset. -/
abbrev st (d : BitVec 7) : Gen := .mode (.static (.d1 d))

/-- R210: -97 + 98 as bytes. -/
theorem test_addi : after (exec (.addi .b (rg 0) (rg 1)) (withRegs [(0, 0xAAAAAA9F), (1, 0xBBBBBB62)]))
    (fun t => t.r[1] == 0xBBBBBB01 && t.flag .c && !t.flag .f && t.pc == 2) = true := by decide

/-- R211: -8 is F8 as a byte. -/
theorem test_addqi : after (exec (.addqi .b (-8) (rg 0)) (withRegs [(0, 0xAAAAAA78)]))
    (fun t => t.r[0] == 0xAAAAAA70 && t.flag .c && !t.flag .f) = true := by decide

/-- R212: the carry is added. -/
theorem test_addci : after (exec (.addci .d (rg 1) (rg 0)) (withFlags [.c] (withRegs [(0, 0x30), (1, 0xFFFFFFFF)])))
    (fun t => t.r[0] == 0x30 && t.flag .c && !t.flag .f) = true := by decide

/-- R213: a borrow. -/
theorem test_subi : after (exec (.subi .d (rg 0) (rg 1)) (withRegs [(0, 0xFFFFFFFE), (1, 0x10000)]))
    (fun t => t.r[1] == 0x10002 && t.flag .c && !t.flag .f) = true := by decide

/-- R214: 80 - 32 - 1. -/
theorem test_subci : after (exec (.subci .b (.imm 32) (rg 1)) (withFlags [.c] (withRegs [(1, 0x50)])))
    (fun t => t.r[1] == 0x2F && !t.flag .c && !t.flag .f) = true := by decide

/-- R215: the most negative byte overflows. -/
theorem test_negi : after (exec (.negi .b (rg 5) (rg 6)) (withRegs [(5, 0x80), (6, 0xBBBBBBBB)]))
    (fun t => t.r[6] == 0xBBBBBB80 && t.flag .c && t.flag .f) = true := by decide

/-- R216. -/
theorem test_absi : after (exec (.absi .d (st 8) (rg 7)) (poke 0x1008 [0xFF, 0xFF, 0xFF, 0xFF] State.reset))
    (fun t => t.r[7] == 1 && !t.flag .f) = true := by decide

/-- R217. -/
theorem test_muli : after (exec (.muli .w (.imm 5) (rg 0)) (withRegs [(0, 0xBBBB000A)]))
    (fun t => t.r[0] == 0xBBBB0032) = true := by decide

/-- R218: the halves of a word product are in two registers. -/
theorem test_meii : after (exec (.meii .w (rg 2) (rg 0)) (withRegs [(2, 0xAAAA0020), (0, 0xBBBB1001), (1, 0xCCCCCCCC)]))
    (fun t => t.r[0] == 0xBBBB0020 && t.r[1] == 0xCCCC0002) = true := by decide

/-- R223: the remainder is low, the quotient high. -/
theorem test_deii : after (exec (.deii .w (rg 2) (rg 0)) (withRegs [(2, 0xAAAA0001), (0, 0xBBBBFFFF), (1, 0xCCCC0000)]))
    (fun t => t.r[0] == 0xBBBB0000 && t.r[1] == 0xCCCCFFFF) = true := by decide

/-- R219: -97 by 20 is -5. -/
theorem test_divi : after (exec (.divi .d (rg 0) (rg 1)) (withRegs [(0, 20), (1, 0xFFFFFF9F)]))
    (fun t => t.r[1] == 0xFFFFFFFB) = true := by decide

/-- R220: -31 modulo 10 is 9. -/
theorem test_modi : after (exec (.modi .b (rg 0) (rg 1)) (withRegs [(0, 0x0A), (1, 0xE1)]))
    (fun t => t.r[1] == 0x09) = true := by decide

/-- R221: -31 by 16 is -1. -/
theorem test_quoi : after (exec (.quoi .w (rg 0) (rg 1)) (withRegs [(0, 0x10), (1, 0xFFE1)]))
    (fun t => t.r[1] == 0xFFFF) = true := by decide

/-- R222: the remainder of -33 by 15 is -3. -/
theorem test_remi : after (exec (.remi .b (rg 0) (rg 1)) (withRegs [(0, 0x0F), (1, 0xDF)]))
    (fun t => t.r[1] == 0xFD) = true := by decide

/-- R224: a store, least-significant byte first. -/
theorem test_movi : after (exec (.movi .d (rg 0) (st 8)) (withRegs [(0, 0x12345678)]))
    (fun t => t.mem == [(0x1008, 0x78), (0x1009, 0x56), (0x100A, 0x34), (0x100B, 0x12)]) = true := by decide

/-- R225: a push. -/
theorem test_movqi : after (exec (.movqi .w 7 (.mode .tos)) State.reset)
    (fun t => t.sp0 == 0x2FFE && t.mem == [(0x2FFE, 7)]) = true := by decide

/-- R226 to R228 and R231. -/
theorem test_movx :
    after (exec (.movxbw (rg 1) (rg 0)) (withRegs [(0, 0xAAAAAAAA), (1, 0xF0)])) (fun t => t.r[0] == 0xAAAAFFF0)
      = true ∧
    after (exec (.movzbw (rg 1) (rg 0)) (withRegs [(0, 0xAAAAAAAA), (1, 0xFF)])) (fun t => t.r[0] == 0xAAAA00FF)
      = true ∧
    after (exec (.movxid .b (rg 1) (rg 0)) (withRegs [(1, 0x80)])) (fun t => t.r[0] == 0xFFFFFF80) = true ∧
    after (exec (.movzid .w (rg 1) (rg 0)) (withRegs [(1, 0xFFFF)])) (fun t => t.r[0] == 0xFFFF) = true := by decide

/-- R229 and R230: the first operand is compared with the second. -/
theorem test_compare :
    after (exec (.cmpi .b (rg 0) (rg 1)) (withRegs [(0, 0xFF), (1, 0x7F)]))
      (fun t => !t.flag .z && !t.flag .n && t.flag .l) = true ∧
    after (exec (.cmpqi .b (-8) (rg 0)) State.reset) (fun t => !t.flag .z && !t.flag .n && t.flag .l) = true := by decide

/-- R242. -/
theorem test_addpi : after (exec (.addpi .d (rg 0) (rg 1)) (withRegs [(0, 0x75308643), (1, 0x12345678)]))
    (fun t => t.r[1] == 0x87654321 && !t.flag .c && !t.flag .f) = true := by decide

/-- R243: a borrow. -/
theorem test_subpi : after (exec (.subpi .b (rg 0) (rg 1)) (withRegs [(0, 0x10), (1, 0x01)]))
    (fun t => t.r[1] == 0x91 && t.flag .c && !t.flag .f) = true := by decide

/-- R302 to R307. -/
theorem test_logical :
    after (exec (.andi .b (rg 0) (rg 1)) (withRegs [(0, 0x92), (1, 0xBB77)])) (fun t => t.r[1] == 0xBB12) = true ∧
    after (exec (.ori .b (rg 0) (rg 1)) (withRegs [(0, 0xD8), (1, 0x0B)])) (fun t => t.r[1] == 0xDB) = true ∧
    after (exec (.bici .b (rg 0) (rg 1)) (withRegs [(0, 0x99), (1, 0xF0)])) (fun t => t.r[1] == 0x60) = true ∧
    after (exec (.xori .b (rg 0) (rg 1)) (withRegs [(0, 0xF0), (1, 0x95)])) (fun t => t.r[1] == 0x65) = true ∧
    after (exec (.comi .b (rg 0) (rg 1)) (withRegs [(0, 0xAA)])) (fun t => t.r[1] == 0x55) = true ∧
    after (exec (.noti .b (rg 0) (rg 0)) (withRegs [(0, 0xAAAAAA01)])) (fun t => t.r[0] == 0xAAAAAA00) = true := by
  decide

/-- R308: -8 shifted right by 2. -/
theorem test_ashi : after (exec (.ashi .b (rg 0) (rg 1)) (withRegs [(0, 0xFE), (1, 0xF8)]))
    (fun t => t.r[1] == 0xFE) = true := by decide

/-- R309. -/
theorem test_lshi : after (exec (.lshi .b (rg 0) (rg 1)) (withRegs [(0, 0xFF), (1, 0xFE)]))
    (fun t => t.r[1] == 0x7F) = true := by decide

/-- R310. -/
theorem test_roti : after (exec (.roti .b (.imm 0xFD) (rg 1)) (withRegs [(1, 0x0F)]))
    (fun t => t.r[1] == 0xE1) = true := by decide

/-- R311. -/
theorem test_scond :
    after (exec (.seqi .b (rg 0)) (withFlags [.z, .l] (withRegs [(0, 0xAAAAAAAA)]))) (fun t => t.r[0] == 0xAAAAAA01)
      = true ∧
    after (exec (.sloi .w (rg 0)) (withFlags [.z, .l] (withRegs [(0, 0xAAAAAAAA)]))) (fun t => t.r[0] == 0xAAAA0000)
      = true := by decide

/-- R0 and R1 of the bit examples, and their bytes. -/
def bitState : State := poke 0x1009 [0x10, 0xEF] (withRegs [(0, 0xAAAA004C), (1, 0x1000), (2, 0xAAAAAAAA)])

/-- R331 to R336. -/
theorem test_bits :
    after (exec (.tbiti .w (rg 0) (.mode (.regRel 1 (.d1 0)))) bitState) (fun t => t.flag .f) = true ∧
    after (exec (.sbiti .w (rg 0) (.mode (.regRel 1 (.d1 1)))) bitState)
      (fun t => !t.flag .f && t.mem == [(0x1009, 0x10), (0x100A, 0xFF)]) = true ∧
    after (exec (.cbiti .w (rg 0) (.mode (.regRel 1 (.d1 0)))) bitState)
      (fun t => t.flag .f && t.mem == [(0x100A, 0xEF)]) = true ∧
    after (exec (.ibiti .w (rg 0) (.mode (.regRel 1 (.d1 1)))) bitState)
      (fun t => !t.flag .f && t.mem == [(0x1009, 0x10), (0x100A, 0xFF)]) = true ∧
    after (exec (.sbitii .w (rg 0) (.mode (.regRel 1 (.d1 1)))) bitState) (fun t => t.interlock) = true ∧
    after (exec (.cbitii .w (rg 0) (.mode (.regRel 1 (.d1 0)))) bitState)
      (fun t => t.interlock && t.mem == [(0x100A, 0xEF)]) = true := by decide

/-- R337: bit 8 is the first at or above bit 5. -/
theorem test_ffsi : after (exec (.ffsi .w (rg 1) (rg 0)) (withRegs [(0, 0xAAAAAA05), (1, 0xEF10)]))
    (fun t => t.r[0] == 0xAAAAAA08 && !t.flag .f) = true := by decide

/-- R338. -/
theorem test_cvtp : after (exec (.cvtp 0 (st 0) (rg 2)) (withRegs [(0, 0x1234)])) (fun t => t.r[2] == 0x9234)
    = true := by decide

/-- R343 and R345. -/
theorem test_extract :
    after (exec (.exti .w 0 (.mode (.regRel 1 (.d1 0))) (rg 2) (.d1 7)) { bitState with r := bitState.r.set 0 0x4C })
      (fun t => t.r[2] == 0xAAAA0071) = true ∧
    after (exec (.extsi .w (st 9) (rg 2) 4 6) bitState) (fun t => t.r[2] == 0xAAAA0071) = true := by decide

/-- R344 and R347. -/
theorem test_insert :
    after (exec (.insi .w 0 (rg 2) (.mode (.regRel 1 (.d1 0))) (.d1 7))
      (poke 0x1009 [0xBB, 0xBB] (withRegs [(0, 0x4C), (1, 0x1000), (2, 0xAAAAAA67)])))
      (fun t => t.mem == [(0x1009, 0x7B), (0x100A, 0xBE)]) = true ∧
    after (exec (.inssi .w (rg 2) (st 16) 4 6) (poke 0x1010 [0xBB, 0xBB] (withRegs [(2, 0xAAAAAA67)])))
      (fun t => t.mem == [(0x1010, 0x7B), (0x1011, 0xBE)]) = true := by decide

/-- R367: an unequal pair ends the instruction at its element. -/
theorem test_cmpsi : after (exec (.cmpsi .b ⟨false, .none⟩)
    (poke 0x2011 [0x1E] (poke 0xF011 [0x1D] (withRegs [(0, 0x0F), (1, 0x2011), (2, 0xF011)]))))
    (fun t => t.r[0] == 0x0F && t.r[1] == 0x2011 && t.r[2] == 0xF011 && t.flag .n && !t.flag .z && !t.flag .f &&
      t.flag .l && t.pc == 3) = true := by decide

/-- R369: an Until match ends the instruction, an element that does not match is passed. -/
theorem test_skpsi :
    after (exec (.skpsi .b ⟨false, .until⟩) (poke 0x200A [0x1F] (withRegs [(0, 22), (1, 0x200A), (4, 0xAAAAAA1F)])))
      (fun t => t.r[0] == 22 && t.r[1] == 0x200A && t.flag .f && t.pc == 3) = true ∧
    after (exec (.skpsi .b ⟨false, .until⟩) (poke 0x2009 [0x07] (withRegs [(0, 23), (1, 0x2009), (4, 0xAAAAAA1F)])))
      (fun t => t.r[0] == 22 && t.r[1] == 0x200A && !t.flag .f && t.pc == 0) = true := by decide

/-- R365 and R366: one element is moved, or its translation. -/
theorem test_movs :
    after (exec (.movsi .b ⟨true, .none⟩) (poke 0x2000 [0x21] (withRegs [(0, 2), (1, 0x2000), (2, 0xF000)])))
      (fun t => t.r[0] == 1 && t.r[1] == 0x1FFF && t.r[2] == 0xEFFF && t.mem == [(0x2000, 0x21), (0xF000, 0x21)])
      = true ∧
    after (exec (.movst ⟨false, .none⟩)
      (poke 0x2000 [0x0A] (poke 0x1000A [0x10] (withRegs [(0, 1), (1, 0x2000), (2, 0xF000), (3, 0x10000)]))))
      (fun t => t.r[0] == 0 && t.r[1] == 0x2001 && t.r[2] == 0xF001 && t.mem.read 0xF000 == 0x10) = true := by decide

/-- R382 and R383. -/
theorem test_blocks :
    after (exec (.movmi .w (.mode (.regRel 0 (.d1 10))) (.mode (.regRel 1 (.d1 16))) (.d1 2))
      (poke 0x200A [0xBE, 0x1F, 0xA9, 0x10] (withRegs [(0, 0x2000), (1, 0xF000)])))
      (fun t => t.mem.readLE 0xF010 4 == 0x10A91FBE) = true ∧
    after (exec (.cmpmi .w (.mode (.regRel 0 (.d1 10))) (.mode (.regRel 1 (.d1 16))) (.d1 2))
      (poke 0x200A [0xBE, 0x1F, 0x29, 0x87] (poke 0xF010 [0xBE, 0x1F, 0x39, 0x08]
        (withRegs [(0, 0x2000), (1, 0xF000)]))))
      (fun t => !t.flag .z && !t.flag .n && t.flag .l) = true := by decide

/-- R384 and R385. -/
theorem test_arrays :
    after (exec (.checki .b 0 (st 4) (rg 2)) (poke 0x1004 [0x0A, 0x01] (withRegs [(2, 0xAAAAAA03)])))
      (fun t => t.r[0] == 2 && !t.flag .f) = true ∧
    after (exec (.indexi .b 0 (.imm 16) (.imm 3)) (withRegs [(0, 3)])) (fun t => t.r[0] == 54) = true := by decide

/-- R404 to R407: PC is 0x9000. -/
theorem test_branches :
    after (exec (.blo (.d2 (-154))) { State.reset with pc := 0x909A }) (fun t => t.pc == 0x9000) = true ∧
    after (exec (.bne (.d1 10)) (withFlags [.z] { State.reset with pc := 0x9FF0 })) (fun t => t.pc == 0x9FF2) = true ∧
    after (exec (.acbi .b (-1) (rg 0) (.d1 (-3))) { withRegs [(0, 0xAAAAAA01)] with pc := 0x9003 })
      (fun t => t.r[0] == 0xAAAAAA00 && t.pc == 0x9006) = true ∧
    after (exec (.casei .b (.scaled .b (.program (.d1 4)) 7))
      (poke 0x9009 [0x6A] { withRegs [(7, 5)] with pc := 0x9000 })) (fun t => t.pc == 0x906A) = true := by decide

/-- R408 to R410. -/
theorem test_calls :
    after (exec (.bsr (.d1 16)) { State.reset with pc := 0x9000, sp0 := 0xFFD4 })
      (fun t => t.pc == 0x9010 && t.sp0 == 0xFFD0 && t.mem.readLE 0xFFD0 4 == 0x9002) = true ∧
    after (exec (.jsr (.mode (.staticRel (.d1 4) (.d1 0))))
      (poke 0x1004 [0xFF, 0x1F] { State.reset with pc := 0x9000, sp0 := 0xFFD4 }))
      (fun t => t.pc == 0x1FFF && t.sp0 == 0xFFD0 && t.mem.readLE 0xFFD0 4 == 0x9004) = true ∧
    after (exec (.ret (.d1 16)) (poke 0xF000 [0x10, 0x90] { State.reset with sp0 := 0xF000 }))
      (fun t => t.pc == 0x9010 && t.sp0 == 0xF014) = true := by decide

/-- The Module Table of the CXP example, and its Link Table entry. -/
def moduleState : State :=
  poke 0x10 [0x80, 0x90, 0, 0, 0xA0, 0x90, 0, 0, 0x00, 0x90, 0, 0, 0, 0, 0, 0, 0x00, 0xF1, 0, 0, 0x10, 0xF1, 0, 0, 0x00,
    0xF0, 0, 0] (poke 0x90A4 [0x20, 0, 0x10, 0]
      { State.reset with pc := 0x9005, mod := 0x10, sb := 0x9080, sp0 := 0xFFF8 })

/-- R94, R411: the Link Table entry of the example, and the procedure its descriptor names. -/
theorem test_enterProcedure :
    (moduleState.linkEntry 1 matches .ok 0x100020) = true ∧
    after (finish (moduleState.enterProcedure 0x100020)) (fun t => t.mod == 0x20 && t.pc == 0xF010 && t.sb == 0xF100)
      = true := by decide

/-- R413: PC and MOD popped, SB from the Module Table, parameters removed. -/
theorem test_rxp : after (exec (.rxp (.d1 16)) (poke 0x1018 [0x05, 0x90, 0, 0, 0x10, 0] (poke 0x10 [0x80, 0x90]
    { State.reset with sp0 := 0x1018 })))
    (fun t => t.pc == 0x9005 && t.mod == 0x10 && t.sb == 0x9080 && t.sp0 == 0x1030) = true := by decide

/-- R426: the constant is added to the stack pointer the new PSR selects. -/
theorem test_rett : after (exec (.rett (.d1 16)) (poke 0x1018 [0x05, 0x90, 0, 0, 0x10, 0, 0x20, 0x03]
    (poke 0x10 [0x80, 0x90] { State.reset with sp0 := 0x1018, sp1 := 0xFFE0 })))
    (fun t => t.pc == 0x9005 && t.mod == 0x10 && t.psr == 0x320 && t.sb == 0x9080 && t.sp0 == 0x1020 &&
      t.sp1 == 0xFFF0) = true := by decide

/-- R427. -/
theorem test_reti : after (exec .reti (poke 0x1000 [0x05, 0x90, 0, 0, 0x10, 0, 0x20, 0x0B] (poke 0x10 [0x80, 0x90]
    { State.reset with sp0 := 0x1000 })))
    (fun t => t.pc == 0x9005 && t.mod == 0x10 && t.psr == 0xB20 && t.sb == 0x9080 && t.sp0 == 0x1008) = true := by
  decide

/-- A Dispatch Table whose entries 5, 6, 8 and 10 name module 0x20. -/
def trapState : State :=
  poke 0x20 [0x00, 0xF1, 0, 0, 0, 0, 0, 0, 0x00, 0xF0] (poke 0x814 [0x20, 0, 0x10, 0, 0x20, 0, 0x20, 0]
    (poke 0x820 [0x20, 0, 0x30, 0, 0, 0, 0, 0, 0x20, 0, 0x40] { State.reset with intbase := 0x800, mod := 0x1234 }))

/-- R421, R519 and R521: SVC from User Mode saves the PSR as it is. -/
theorem test_svc : after (exec .svc { withFlags [.u, .s, .i, .z] trapState with pc := 0x9000 })
    (fun t => t.pc == 0xF010 && t.mod == 0x20 && t.sb == 0xF100 && t.sp0 == 0x2FF8 && t.psr == 0x840 &&
      t.mem.readLE 0x2FFE 2 == 0xB40 && t.mem.readLE 0x2FFC 2 == 0x1234 && t.mem.readLE 0x2FF8 4 == 0x9000) = true := by
  decide

/-- R203 and R521: a zero divisor traps at its instruction. -/
theorem test_dvz : after (exec (.divi .d (rg 0) (rg 1)) { trapState with pc := 0x9000 })
    (fun t => t.pc == 0xF020 && t.mem.readLE 0x2FF8 4 == 0x9000) = true := by decide

/-- R512: an abort of the read of dest comes before Trap (DVZ). -/
theorem test_dvz_order : after (exec (.divi .d (rg 0) (st 4)) (cutBy (aborts (.read 0 0x1004)) { trapState with
      pc := 0x9000 })) (fun t => t.pc != 0xF020) = true := by decide

/-- R440 and R441. -/
theorem test_addresses :
    after (exec (.addr (.mode (.frame (.d1 4))) (rg 0)) { State.reset with fp := 0x1000 }) (fun t => t.r[0] == 0x1004)
      = true ∧
    after (exec (.lxpd (.d1 1) (.d1 0) (.mode .tos)) moduleState)
      (fun t => t.sp0 == 0xFFF4 && t.mem.readLE 0xFFF4 4 == 0x100020) = true := by decide

/-- R443. -/
theorem test_save : after (exec (.save 0x85)
    { withRegs [(0, 0x10), (2, 0xFFFFFFEF), (7, 0xFFFFF9AB)] with sp0 := 0xFFEC })
    (fun t => t.sp0 == 0xFFE0 && t.mem.readLE 0xFFE8 4 == 0x10 && t.mem.readLE 0xFFE4 4 == 0xFFFFFFEF &&
      t.mem.readLE 0xFFE0 4 == 0xFFFFF9AB) = true := by decide

/-- R444. -/
theorem test_restore : after (exec (.restore 0xA1)
    (poke 0xFFE0 [0xAB, 0xF9, 0xFF, 0xFF, 0xEF, 0xFF, 0xFF, 0xFF, 0x10] { State.reset with sp0 := 0xFFE0 }))
    (fun t => t.sp0 == 0xFFEC && t.r[0] == 0x10 && t.r[2] == 0xFFFFFFEF && t.r[7] == 0xFFFFF9AB) = true := by decide

/-- R445. -/
theorem test_enter : after (exec (.enter 0x85 (.d1 16)) { withFlags [.s]
    (withRegs [(0, 0x10), (2, 0xFFFFFFEF), (7, 0xFFFFF9AB)]) with fp := 0x10F8, sp1 := 0x10F0 })
    (fun t => t.fp == 0x10EC && t.sp1 == 0x10D0 && t.mem.readLE 0x10EC 4 == 0x10F8 && t.mem.readLE 0x10D8 4 == 0x10 &&
      t.mem.readLE 0x10D4 4 == 0xFFFFFFEF && t.mem.readLE 0x10D0 4 == 0xFFFFF9AB) = true := by decide

/-- R446. -/
theorem test_exit : after (exec (.exit 0xA1)
    (poke 0x10D0 [0xAB, 0xF9, 0xFF, 0xFF, 0xEF, 0xFF, 0xFF, 0xFF, 0x10] (poke 0x10EC [0xF8, 0x10]
      { State.reset with fp := 0x10EC, sp0 := 0x10D0 })))
    (fun t => t.fp == 0x10F8 && t.sp0 == 0x10F0 && t.r[0] == 0x10 && t.r[2] == 0xFFFFFFEF && t.r[7] == 0xFFFFF9AB)
    = true := by decide

/-- R447 to R449: the example's constant is 16. -/
theorem test_adjust :
    after (exec (.adjspi .d (rg 0)) { withFlags [.s] (withRegs [(0, 0x10)]) with sp1 := 0x1010 })
      (fun t => t.sp1 == 0x1000 && t.sp0 == 0x3000) = true ∧
    after (exec (.bicpsri .b (.imm 0xA2)) { State.reset with psr := 0x0FE7 }) (fun t => t.psr == 0x0F45) = true ∧
    after (exec (.bispsri .b (.imm 0xA2)) State.reset) (fun t => t.psr == 0x00A2) = true := by decide

/-- R450 and R451. -/
theorem test_dedicated :
    after (exec (.lpri .d .fp (rg 0)) (withRegs [(0, 0x543210)])) (fun t => t.fp == 0x543210) = true ∧
    after (exec (.spri .w .mod (st 4)) { State.reset with mod := 0x30 }) (fun t => t.mem == [(0x1004, 0x30)]) = true := by
  decide

/-- R456 and R458. -/
theorem test_system :
    after (exec (.setcfg 0b0111) State.reset) (fun t => t.cfg == 0b0111) = true ∧
    after (exec .wait State.reset) (fun t => t.waiting && t.pc == 1) = true := by decide

/-- R66, R482, R487 and R488: BCNT is a 32-bit cell, which SMR reads back. -/
theorem test_mmu_registers :
    after (exec (.lmr .bcnt (rg 0)) { withRegs [(0, 0xAA009000)] with cfg := 4 }) (fun t => t.mmu.bcnt == 0xAA009000)
      = true ∧
    after (exec (.smr .bcnt (rg 0))
      { State.reset with cfg := 4, mmu := { State.reset.mmu with bcnt := 0x12009000 } }) (fun t => t.r[0] == 0x12009000)
      = true := by decide

/-- R485 and R486. -/
theorem test_spaces :
    after (exec (.movsui .b (.mode (.stack (.d1 5))) (st 9)) (poke 0x3005 [0x10] (poke 0x1009 [0xAA] State.reset)))
      (fun t => t.mem.read 0x1009 == 0x10) = true ∧
    after (exec (.movusi .b (st 9) (.mode (.stack (.d1 5)))) (poke 0x1009 [0x10] (poke 0x3005 [0xAA] State.reset)))
      (fun t => t.mem.read 0x3005 == 0x10) = true := by decide

/-- R270 to R273, single precision. -/
theorem test_arithmetic :
    after (exec (.addf .single (rg 0) (rg 7)) (withFs [(0, 0x40840000), (7, 0x41D40000)]))
      (fun t => t.f[7] == 0x41F50000) = true ∧
    after (exec (.subf .single (rg 0) (rg 7)) (withFs [(0, 0x40840000), (7, 0x41F50000)]))
      (fun t => t.f[7] == 0x41D40000) = true ∧
    after (exec (.mulf .single (rg 0) (rg 7)) (withFs [(0, 0x42250000), (7, 0x40A00000)]))
      (fun t => t.f[7] == 0x434E4000) = true ∧
    after (exec (.divf .single (rg 0) (rg 7)) (withFs [(0, 0x42250000), (7, 0x434E4000)]))
      (fun t => t.f[7] == 0x40A00000) = true := by decide

/-- R270: double precision, registers F2 and F3 holding the low and the high half. -/
theorem test_addl : after (exec (.addf .double (rg 2) (rg 4))
    (withFs [(2, 0x88300000), (3, 0x41C02008), (4, 0), (5, 0x4114C863)]))
    (fun t => t.f[4] == 0x94900000 && t.f[5] == 0x41C022A1) = true := by decide

/-- R274 to R277. -/
theorem test_fp_moves :
    after (exec (.negf .single (rg 0) (rg 2)) (withFs [(0, 0x42250000)])) (fun t => t.f[2] == 0xC2250000) = true ∧
    after (exec (.absf .single (rg 0) (rg 2)) (withFs [(0, 0xC2250000)])) (fun t => t.f[2] == 0x42250000) = true ∧
    after (exec (.cmpf .single (rg 0) (rg 2)) (withFs [(0, 0x42250000), (2, 0x40A00000)]))
      (fun t => t.flag .n && !t.flag .z && !t.flag .l) = true ∧
    after (exec (.movf .single (rg 0) (st 8)) (withFs [(0, 0x3F800000)])) (fun t => t.mem.readLE 0x1008 4 == 0x3F800000)
      = true := by decide

/-- R278 to R283. -/
theorem test_fp_conversions :
    after (exec (.movif .d .double (rg 0) (rg 2)) (withRegs [(0, 541069584)]))
      (fun t => t.f[2] == 0x88000000 && t.f[3] == 0x41C02008) = true ∧
    after (exec (.roundfi .single .b (rg 0) (rg 0)) { withFs [(0, 0x40180000)] with r := Vector.replicate 8 0xAAAAAAAA })
      (fun t => t.r[0] == 0xAAAAAA02) = true ∧
    after (exec (.truncfi .single .b (rg 0) (rg 0)) (withFs [(0, 0xC0280000)])) (fun t => t.r[0] == 0xFE) = true ∧
    after (exec (.floorfi .single .b (rg 0) (rg 0)) (withFs [(0, 0xC0280000)])) (fun t => t.r[0] == 0xFD) = true ∧
    after (exec (.movlf (rg 0) (st 12)) (withFs [(0, 0), (1, 0x3FF00000)]))
      (fun t => t.mem.readLE 0x100C 4 == 0x3F800000) = true ∧
    after (exec (.movfl (rg 2) (rg 0)) (withFs [(2, 0x3F800000)])) (fun t => t.f[0] == 0 && t.f[1] == 0x3FF00000)
      = true := by decide

/-- R285 and R286. -/
theorem test_fp_status :
    after (exec (.lfsr (rg 0)) { withRegs [(0, 0x28)] with fsr := 0x129 }) (fun t => t.fsr == 0x28) = true ∧
    after (exec (.sfsr (.mode .tos)) { State.reset with fsr := 0x28 })
      (fun t => t.sp0 == 0x2FFC && t.mem == [(0x2FFC, 0x28)]) = true := by decide

/-! ## Steps cut short -/

/-- R524 and R105: SAVE aborted at its second push takes the Abort trap at its address, the stack pointer restored. -/
theorem test_save_aborted : after (exec (.save 0x85) (cutBy (aborts (.write 1)) { withFlags [.s, .u, .i]
      (withRegs [(0, 0x10), (2, 0x20)]) with sp1 := 0xFFEC, pc := 0x9000 }))
    (fun t => t.sp1 == 0xFFEC && t.sp0 == 0x2FF8 && t.psr == 0 && t.mem.readLE 0x2FFE 2 == 0xB00 &&
      t.mem.readLE 0x2FF8 4 == 0x9000 && t.mem.readLE 0xFFE8 4 == 0x10 && t.mem.readLE 0xFFE4 4 == 0) = true := by
  decide

/-- R105: the second of the pointer reads of a MOVB, and the read of a Table entry, are aborted. -/
theorem test_reads_aborted :
    after (exec (.movi .b (.mode (.frameRel (.d1 0) (.d1 0))) (.mode (.staticRel (.d1 4) (.d1 0))))
      (cutBy (aborts (.read 0 0x1005)) { State.reset with pc := 0x9000 })) (fun t => t.mem.readLE 0x2FF8 4 == 0x9000)
      = true ∧
    after (exec (.cxp (.d1 0)) (cutBy (aborts (.read 0 4)) { State.reset with pc := 0x9000 }))
      (fun t => t.mem.readLE 0x2FF8 4 == 0x9000 && t.sp0 == 0x2FF8) = true := by decide

/-- R105: EXIT with FP at the register it has popped: only the second read of that byte is aborted, or none. -/
theorem test_exit_aborted :
    after (exec (.exit 0x80) (cutBy (aborts (.read 1 0x3000)) { State.reset with fp := 0x3000, pc := 0x9000 }))
      (fun t => t.mem.readLE 0x2FF8 4 == 0x9000 && t.sp0 == 0x2FF8) = true ∧
    after (exec (.exit 0x80) (cutBy (aborts (.read 2 0x3000)) { State.reset with fp := 0x3000, pc := 0x9000 }))
      (fun t => t.pc == 0x9002 && t.sp0 == 0x3004) = true := by decide

/-- R105 and R531: the End of Interrupt read of RETI is aborted, and the cascaded one. -/
theorem test_reti_aborted :
    after (exec .reti (cutBy (aborts (.read 0 0xFFFE00)) { State.reset with pc := 0x9000 }))
      (fun t => t.mem.readLE 0x2FF8 4 == 0x9000 && t.sp0 == 0x2FF8) = true ∧
    after (exec .reti (cutBy (aborts (.read 0 0x4000)) (poke 0x7C0 [0, 0x40] { State.reset with
        intbase := 0x800, pc := 0x9000, env := [{ quiet with eoiByte := 0xF0 }] })))
      (fun t => t.mem.readLE 0x2FF8 4 == 0x9000 && t.sp0 == 0x2FF8) = true := by decide

/-- R526: the acknowledge read of an interrupt is aborted. -/
theorem test_acknowledge_aborted :
    step { State.reset with psr := 0x800, env := [{ quiet with int := true, cut := aborts (.read 0 0xFFFE00) }] }
      = .fault .entryAborted := rfl

/-- R218: of a memory dest MEIB reads the low byte only. -/
theorem test_meii_reads_low :
    after (exec (.meii .b (.imm 3) (st 4)) (cutBy (aborts (.read 0 0x1005)) (poke 0x1004 [0x80, 7] State.reset)))
      (fun t => t.mem.readLE 0x1004 2 == 0x180) = true ∧
    after (exec (.meii .b (.imm 3) (st 4)) (cutBy (aborts (.read 0 0x1004)) { State.reset with pc := 0x9000 }))
      (fun t => t.mem.readLE 0x2FF8 4 == 0x9000) = true := by decide

/-- R501: SAVE cut off by Reset at its second push, a trap's entry at its second, and NOP at its end. -/
theorem test_reset_inside :
    after (exec (.save 0x85) (cutBy (resets 1) { withFlags [.s, .u] (withRegs [(0, 0x10), (2, 0x20)]) with
        sp1 := 0xFFEC, pc := 0x9000 }))
      (fun t => t.pc == 0 && t.psr == 0 && t.mem == [(0xFFE8, 0x10)]) = true ∧
    after (step { State.reset with
        psr := 0x40, pc := 0x9000, mem := [(0x9000, 0xE2)], env := [{ quiet with cut := resets 1 }] })
      (fun t => t.pc == 0 && t.mem == [(0x2FFE, 0x40), (0x9000, 0xE2)]) = true ∧
    after (step { State.reset with pc := 0x9000, mem := [(0x9000, 0xA2)], env := [{ quiet with cut := resets 3 }] })
      (fun t => t.pc == 0 && t.env == []) = true := by decide

/-! ## Witnesses: for every statement with hypotheses, states and operands that meet them -/

/-- The hypotheses of `RmwClaimIf`. -/
def RmwMet (pre : Nat → Nat → Prop) (ns nd : Nat) (src dst : Gen) (s s1 : State) (a d : Nat) (l : Loc) : Prop :=
  s.mem.wf = true ∧ s.cut = .never ∧ readOp .int ns s s src = .ok (a, s1) ∧ locate .int s s1 dst = .ok l ∧
    s1.readLoc nd l = .ok d ∧ pre a d

/-- The hypotheses of `InPlaceClaim`. -/
def InPlaceMet (n : Nat) (dst : Gen) (s : State) (d : Nat) (l : Loc) : Prop :=
  s.mem.wf = true ∧ s.cut = .never ∧ locate .int s s dst = .ok l ∧ s.readLoc n l = .ok d

/-- The hypotheses of `PairClaimIf`. -/
def PairMet (pre : Nat → Nat → Nat → Prop) (n : Nat) (src dst : Gen) (s s1 : State) (a lo hi : Nat) (l : Loc) : Prop :=
  s.mem.wf = true ∧ s.cut = .never ∧ readOp .int n s s src = .ok (a, s1) ∧ locate .int s s1 dst = .ok l ∧
    s1.readPair n l = .ok (lo, hi) ∧ pre a lo hi

/-- The hypotheses of `MoveClaim`. -/
def MoveMet (ns nd : Nat) (src dst : Gen) (s s1 s2 : State) (a old : Nat) (l : Loc) : Prop :=
  s.mem.wf = true ∧ s.cut = .never ∧ readOp .int ns s s src = .ok (a, s1) ∧ locateWrite .int nd s s1 dst = .ok (l, s2) ∧
    s2.readLoc nd l = .ok old

/-- The hypotheses of `StoreClaim`. -/
def StoreMet (n : Nat) (dst : Gen) (pre : State → Prop) (s s2 : State) (old : Nat) (l : Loc) : Prop :=
  s.mem.wf = true ∧ s.cut = .never ∧ pre s ∧ locateWrite .int n s s dst = .ok (l, s2) ∧ s2.readLoc n l = .ok old

/-- R0 = 5, R1 = 7, the bytes at 4(SB) 9 and the top of the stack 3. -/
def sample : State := poke 0x1004 [9] (poke 0x3000 [3] (withRegs [(0, 5), (1, 7)]))

/-- The same with the top of the stack popped. -/
def popped : State := sample.addSp 4

/-- The same with room for a double-word on the stack. -/
def pushed : State := sample.setSp 0x2FFC

theorem test_witness_DecodeEncode : Instr.wf (.addi .d (st 4) (.scaled .w (.frame (.d2 (-64))) 3)) = true ∧
    Instr.wf (.br (.d4 16777215)) = true ∧ decode [0xE7, 0xB5, 0x03, 0x80, 0x00, 0xAA]
      = .ok (.lxpd (.d1 3) (.d2 0) (.mode .tos), [0xAA]) := by decide

/-- Empty memory decodes as ADDB R0,R0. -/
theorem test_witness_StepRunsDecoded :
    State.reset.input.cut.reset ≠ some 0 ∧ State.reset.waiting = false ∧ State.reset.input.cut.abort ≠ some .fetch ∧
    State.reset.fetchBytes = 0 :: List.replicate 24 0 ∧ slaveDisabled State.reset 0 = false ∧
    decode (0 :: List.replicate 24 0) = .ok (.addi .b (rg 0) (rg 0), List.replicate 23 0) :=
  ⟨by decide, rfl, by decide, rfl, rfl, rfl⟩

/-- ADDF F0,F1 with the FPU enabled, and RDVAL 0 with the MMU, at PC. -/
theorem test_witness_StepRunsStored :
    ((Instr.wf (.addf .single (rg 0) (rg 1)) = true ∧ State.reset.pc.toNat + instrLength (.addf .single (rg 0) (rg 1))
      ≤ 16777216) ∧
      (∀ k < instrLength (.addf .single (rg 0) (rg 1)),
        some ((poke 0 [0xBE, 0x41, 0x00] State.reset).mem.read (State.reset.pc.toNat + k))
          = (encode (.addf .single (rg 0) (rg 1)))[k]? ∧
        State.reset.pc.toNat + k ≠ 0xFFFE00 ∧ State.reset.pc.toNat + k ≠ 0xFFFF00) ∧
      (encode (.addf .single (rg 0) (rg 1))).head? = some 0xBE ∧ State.reset.cfg.getLsbD 1 = true) ∧
    ((encode .custom36).head? = some 0x36 ∧ (8#4).getLsbD 3 = true) ∧
    ((encode (.rdval (rg 0))).head? = some 0x1E ∧ (4#4).getLsbD 2 = true) := by decide

theorem test_witness_InvKept : Inv State.reset ∧ ∃ t, step State.reset = .next t :=
  ⟨⟨rfl, rfl, rfl⟩, _, rfl⟩

/-- Bytes 3E without the FPU, 1E without the MMU, B6 without a Custom slave, and 06; and an unassigned op of each
format that has one. -/
theorem test_witness_UndefinedTraps :
    (State.reset.input.cut.reset ≠ some 0 ∧ State.reset.waiting = false ∧ State.reset.input.cut.abort ≠ some .fetch) ∧
    ((poke 0 [0x3E] { State.reset with cfg := 0 }).fetchBytes = 0x3E :: List.replicate 24 0 ∧ (0#4).getLsbD 1 = false) ∧
    ((poke 0 [0x1E] State.reset).fetchBytes = 0x1E :: List.replicate 24 0 ∧ State.reset.cfg.getLsbD 2 = false) ∧
    ((poke 0 [0xB6] State.reset).fetchBytes = 0xB6 :: List.replicate 24 0 ∧ State.reset.cfg.getLsbD 3 = false) ∧
    (poke 0 [0x06] State.reset).fetchBytes = 0x06 :: List.replicate 24 0 ∧
    (0xFC ∈ ([0x7C, 0x7D, 0x7F, 0xFC, 0xFD, 0xFF] : List Byte) ∧
      (0xFC + 256 * (0 : Byte).toNat) / 128 % 16 ∈ [1, 3, 5, 7, 8, 9, 11, 13, 15]) ∧
    (poke 0 [0xCE, 0x28] State.reset).fetchBytes = 0xCE :: 0x28 :: List.replicate 23 0 ∧
    (0x28 : Byte).toNat / 4 % 16 = 10 ∧
    (4 ≤ (0x10 : Byte).toNat / 4 % 16 ∧ (0x10 : Byte).toNat / 4 % 16 = 4 ∧
      (0x18 : Byte).toNat / 4 % 16 ∈ [6, 7, 10, 11, 14, 15]) ∧
    ((0x04 : Byte).toNat / 4 % 16 % 2 = 1 ∧ (0x04 : Byte).toNat / 8 % 8 ≠ 1 ∧ (0x04 : Byte).toNat / 8 % 8 ≠ 3) := by
  decide

/-- D7, R178: F-CE with op 1010 takes Trap (UND). -/
theorem test_undefined_op : after (step (poke 0x9000 [0xCE, 0x28] { trapState with pc := 0x9000 }))
    (fun t => t.pc == 0xF040 && t.mem.readLE 0x2FF8 4 == 0x9000) = true := by decide

/-- Waiting: with nothing asked for, with an edge on NMI, and with INT and I. -/
theorem test_witness_Waiting :
    (({ State.reset with waiting := true } : State).input.cut.reset = none ∧
      ({ State.reset with waiting := true } : State).nmiPending = false ∧
      ({ State.reset with waiting := true } : State).input.nmiEdge = false ∧
      ({ State.reset with waiting := true } : State).input.int = false) ∧
    (∃ t, step { State.reset with waiting := true, env := [{ quiet with nmiEdge := true }] } = .next t) ∧
    ({ State.reset with psr := 0x800, waiting := true, env := [{ quiet with int := true }] } : State).flag .i = true ∧
    ∃ t, step { State.reset with psr := 0x800, waiting := true, env := [{ quiet with int := true }] } = .next t :=
  ⟨by decide, ⟨_, rfl⟩, by decide, ⟨_, rfl⟩⟩

/-- Before a step; SAVE of eight registers at its last push; and at the end of a step, where NMI is accepted, where the
Trace trap is, and where nothing is. -/
theorem test_witness_ResetEvent :
    ({ State.reset with env := [{ quiet with cut := resets 0 }] } : State).input.cut.reset = some 0 ∧
    ((cutBy (resets 7) sample).mem.wf = true ∧ (cutBy (resets 7) sample).cut = { abort := none, reset := some 7 } ∧
      7 < listedBelow 0xFF 8 ∧ 4 * listedBelow 0xFF 8 ≤ (cutBy (resets 7) sample).sp.toNat ∧
      checkAccess ((cutBy (resets 7) sample).sp.toNat - 4 * listedBelow 0xFF 8) (4 * listedBelow 0xFF 8) = .ok ()) ∧
    sample.mem.wf = true ∧ Cleared [] sample.psr 0 ∧ Cleared [.p] 0x400 0 ∧ sample.psr = 0 ∧
    (∃ t, (cutBy (resets 1) { sample with nmiPending := true }).complete false = .ok t) ∧
    (∃ t, (cutBy (resets 3) { sample with psr := 0x400 }).complete false = .ok t) ∧
    ∃ t, (cutBy (resets 0) sample).complete false = .ok t :=
  ⟨rfl, ⟨rfl, rfl, by decide, by decide, rfl⟩, rfl, fun k => by cases k <;> decide, fun k => by cases k <;> decide, rfl,
    ⟨_, rfl⟩, ⟨_, rfl⟩, _, rfl⟩

/-- NMI, then INT with I, then P, then nothing. -/
theorem test_witness_BoundaryOrder :
    ({ State.reset with nmiPending := true } : State).nmiPending = true ∧
    (State.reset.nmiPending = false ∧
      ({ State.reset with psr := 0x800, env := [{ quiet with int := true }] } : State).input.int = true ∧
      ({ State.reset with psr := 0x800, env := [{ quiet with int := true }] } : State).flag .i = true) ∧
    (State.reset.input.int = false ∧ ({ State.reset with psr := 0x400 } : State).flag .p = true ∧
      State.reset.waiting = false) ∧
    State.reset.flag .p = false := by decide

/-- After Reset every vector from 0 to 10 names the module at 0. -/
theorem reset_ready (n : Nat) (h : n ≤ 10) : ExceptionReady State.reset 0 n 0 := by
  interval_cases n <;> exact ⟨rfl, by decide, rfl, rfl, by decide⟩

theorem test_witness_TrapEntry :
    State.reset.mem.wf = true ∧ ExceptionReady State.reset State.reset.psr 10 State.reset.pc.toNat ∧
    ExceptionReady State.reset State.reset.psr 3 State.reset.pc.toNat :=
  ⟨rfl, reset_ready 10 (by decide), reset_ready 3 (by decide)⟩

/-- A step that ends in either sequence; an abort of the fetch; MOVB at the read of 4(SB) and at a push; SAVE of eight
registers at its last push; a trap at its last push. -/
theorem test_witness_TraceAbortEntry :
    (State.reset.mem.wf = true ∧ Cleared [.p] State.reset.psr 0 ∧ 0#16 &&& 0xF018#16 = State.reset.psr &&& 0xF018 ∧
      ExceptionReady State.reset 0 9 State.reset.pc.toNat ∧ ExceptionReady State.reset 0 2 State.reset.pc.toNat) ∧
    (({ State.reset with env := [{ quiet with cut := aborts .fetch }] } : State).input.cut = aborts .fetch ∧
      (aborts .fetch).reset ≠ some 0 ∧ State.reset.waiting = false) ∧
    ((cutBy (aborts (.read 0 0x1004)) sample).cut = { abort := some (.read 0 0x1004), reset := none } ∧
      locate .int (cutBy (aborts (.read 0 0x1004)) sample) (cutBy (aborts (.read 0 0x1004)) sample) (st 4)
        = .ok (.mem 0x1004) ∧ (0x1004 : Dword).toNat ≤ 0x1004 ∧ 0x1004 < (0x1004 : Dword).toNat + IntLen.b.bytes) ∧
    (readOp .int 4 (cutBy (aborts (.write 0)) sample) (cutBy (aborts (.write 0)) sample) (rg 0)
        = .ok (5, cutBy (aborts (.write 0)) sample) ∧
      locateWrite .int 4 (cutBy (aborts (.write 0)) sample) (cutBy (aborts (.write 0)) sample) (.mode .tos)
        = .ok (.mem 0x2FFC, cutBy (aborts (.write 0)) pushed)) ∧
    (sample.mem.wf = true ∧ 7 < listedBelow 0xFF 8 ∧ 4 * listedBelow 0xFF 8 ≤ sample.sp.toNat ∧
      checkAccess (sample.sp.toNat - 4 * listedBelow 0xFF 8) (4 * listedBelow 0xFF 8) = .ok ()) ∧
    8 ≤ sample.sp0.toNat ∧ checkAccess (sample.sp0.toNat - 8) 8 = .ok () ∧
    finish ((cutBy (aborts (.write 2)) sample).trap .svc) = .fault .entryAborted :=
  ⟨⟨rfl, fun k => by cases k <;> decide, by decide, reset_ready 9 (by decide), reset_ready 2 (by decide)⟩,
    ⟨rfl, by decide, rfl⟩, ⟨rfl, rfl, by decide, by decide⟩, ⟨rfl, rfl⟩, ⟨rfl, by decide, by decide, rfl⟩,
    by decide, rfl, rfl⟩

/-- INT with an Interrupt Control Unit that gives vector 5. -/
def icuState : State := { State.reset with cfg := 1, env := [{ quiet with ackByte := 5 }] }

/-- INT with a cascaded unit that gives vector 7. -/
def cascadeState : State :=
  { State.reset with cfg := 1, intbase := 0x800, env := [{ quiet with ackByte := 0xF0, cascadeByte := some 7 }] }

/-- NMI; INT without an Interrupt Control Unit; a vector of 5; a cascaded unit that answers 7. -/
theorem test_witness_InterruptEntry :
    (State.reset.mem.wf = true ∧ Cleared [.p] State.reset.psr 0 ∧ Cleared [] State.reset.psr 0 ∧
      ExceptionReady State.reset 0 1 0 ∧ ExceptionReady State.reset 0 0 0 ∧ State.reset.cfg.getLsbD 0 = false) ∧
    (icuState.cfg.getLsbD 0 = true ∧ icuState.input.ackByte.toNat < 128 ∧ ExceptionReady icuState 0 5 0) ∧
    (128 ≤ cascadeState.input.ackByte.toNat ∧ cascadeState.input.cascadeByte = some 7 ∧
      State.cascadeAddress
        { cascadeState with mem := cascadeState.mem.writeLE (cascadeState.sp0.toNat - 2) 2 (0 : Word).toNat }
        cascadeState.input.ackByte = .ok 0 ∧ ExceptionReady cascadeState 0 7 0) :=
  ⟨⟨rfl, fun k => by cases k <;> decide, fun k => by cases k <;> decide, reset_ready 1 (by decide),
    reset_ready 0 (by decide), rfl⟩, ⟨rfl, by decide, ⟨rfl, by decide, rfl, rfl, by decide⟩⟩, by decide, rfl,
    rfl, ⟨rfl, by decide, rfl, rfl, by decide⟩⟩

/-- NOP, SVC and an aborted RET in User Mode. -/
theorem test_witness_UserModeProtected :
    ({ State.reset with psr := 0x300 } : State).flag .u = true ∧
    (∃ t, exec .nop { State.reset with psr := 0x300 } = .next t) ∧
    (∃ t, exec .svc { State.reset with psr := 0x300 } = .next t) ∧
    (cutBy (aborts (.read 0 0x3000)) State.reset).cut.reset = none ∧
    ∃ t, exec (.ret (.d1 0)) (cutBy (aborts (.read 0 0x3000)) { State.reset with psr := 0x300 }) = .next t :=
  ⟨by decide, ⟨_, rfl⟩, ⟨_, rfl⟩, rfl, ⟨_, rfl⟩⟩

theorem test_witness_PrivilegedTraps :
    ({ State.reset with psr := 0x100, cfg := 4 } : State).flag .u = true ∧
    ({ State.reset with psr := 0x100, cfg := 4 } : State).cfgM = true := by decide

/-- The lengths, the last register pair, and the last eight bytes of memory. -/
theorem test_witness_SubRegister : ((1 ∈ [1, 2, 4]) ∧ (2 ∈ [1, 2, 4]) ∧ (4 ∈ [1, 2, 4])) ∧
    ((6 : Fin 8).val % 2 = 0 ∧ (7 : Fin 8).val = (6 : Fin 8).val + 1) ∧ sample.mem.wf = true ∧ sample.cut = .never ∧
    checkAccess (0xFFFFF8 : Dword).toNat (2 * 4) = .ok () := ⟨by decide, by decide, rfl, rfl, rfl⟩

/-- R145 and R166: the low half of a pair is the even register, and the lower address; R253 of a double-precision
value. -/
theorem test_pairs :
    sample.readPair 2 (.gpr 0) = .ok (5, 7) ∧ (withRegs []).readLoc 8 (.fpr 2) = .ok 0 ∧
    (poke 0x4000 [1, 2] State.reset).readPair 1 (.mem 0x4000) = .ok (1, 2) ∧
    ({ State.reset with f := State.reset.f.set 3 1 } : State).readLoc 8 (.fpr 2) = .ok 4294967296 :=
  ⟨rfl, rfl, rfl, rfl⟩

/-- Up to the last byte of memory and the bytes before the acknowledge address. -/
theorem test_witness_ByteOrder : sample.mem.wf = true ∧ sample.cut = .never ∧ 8 ∈ [1, 2, 4, 8] ∧ checkAccess (0xFFFFF8 : Dword).toNat 8 = .ok () ∧
    checkAccess (0xFFFDF8 : Dword).toNat 8 = .ok () ∧ checkAccess (0 : Dword).toNat 1 = .ok () := ⟨rfl, rfl, by decide, rfl, rfl, rfl⟩

/-- A pointer in memory, a Link Table at the last module address, and a Scaled Index over Register mode. -/
theorem test_witness_EffectiveAddresses :
    (0 ≤ (Disp.d1 0).value ∧ State.reset.memRead (State.reset.fp.setWidth 32 + BitVec.ofInt 32 (Disp.d1 4).value) 4 = .ok 0 ∧
      State.reset.memRead (State.reset.sb.setWidth 32 + BitVec.ofInt 32 (Disp.d1 4).value) 4 = .ok 0 ∧
      State.reset.memRead ((if State.reset.flag .s then State.reset.sp1 else State.reset.sp0).setWidth 32
        + BitVec.ofInt 32 (Disp.d1 4).value) 4 = .ok 0) ∧
    (({ State.reset with mod := 0xFFF0 } : State).mod.toNat < 0xFFF1 ∧
      ({ State.reset with mod := 0xFFF0 } : State).memRead (BitVec.ofNat 32 (0xFFF0 + 4)) 4 = .ok 0 ∧
      State.reset.memRead (BitVec.ofInt 32 ((0 : Nat) + 4 * (Disp.d1 1).value)) 4 = .ok 0) ∧
    addrOf sample sample (.mode (.reg 1)) = .ok (BitVec.ofNat 32 7) ∧
    sample.memRead ((if sample.flag .s then sample.sp1 else sample.sp0).setWidth 32
      + BitVec.ofInt 32 (Disp.d1 0).value) 4 = .ok 3 := ⟨⟨by decide, rfl, rfl, rfl⟩, ⟨by decide, rfl, rfl⟩, rfl, rfl⟩

/-- R147, R151 and R152: once a Top of Stack operand is popped, Stack Memory modes still use the stack pointer of the
start, and Top of Stack the one it has now. -/
theorem test_stack_at_start :
    addrOf sample popped (.mode (.stack (.d1 0))) = .ok 0x3000 ∧ addrOf sample popped (.mode .tos) = .ok 0x3004 ∧
    addrOf sample popped (.mode (.stackRel (.d1 0) (.d1 1))) = .ok 4 := ⟨rfl, rfl, rfl⟩

/-- A pop, a read elsewhere, a push and a write elsewhere, a register of each file, and memory. -/
theorem test_witness_StackOperands :
    readOp .int 4 sample sample (.mode .tos) = .ok (3, popped) ∧ readOp .int 4 sample sample (st 4) = .ok (9, sample) ∧
    locateWrite .int 4 sample sample (.mode .tos) = .ok (.mem 0x2FFC, pushed) ∧
    locateWrite .int 4 sample sample (rg 1) = .ok (.gpr 1, sample) ∧
    (sample.memRead (sample.sp.setWidth 32) 4 = .ok 3 ∧ 4 ≤ sample.sp.toNat) ∧
    (st 4 ≠ .mode .tos ∧ (∀ k : Fin 8, st 4 ≠ .mode (.reg k)) ∧ addrOf sample popped (st 4) = .ok 0x1004 ∧
      locate .fp sample popped (st 4) = .ok (.mem 0x1004) ∧ popped.readLoc 4 (.mem 0x1004) = .ok 9) :=
  ⟨rfl, rfl, rfl, rfl, ⟨rfl, by decide⟩, by decide, by decide, rfl, rfl, rfl⟩

/-- Register to register, a pop to memory, rmw of the top of the stack, and a move to a push. -/
theorem test_witness_AddSubtract :
    RmwMet (fun _ _ => True) 4 4 (rg 0) (rg 1) sample sample 5 7 (.gpr 1) ∧
    RmwMet (fun _ _ => True) 4 4 (.mode .tos) (st 4) sample popped 3 9 (.mem 0x1004) ∧
    InPlaceMet 4 (.mode .tos) sample 3 (.mem 0x3000) ∧
    MoveMet 4 4 (rg 0) (.mode .tos) sample sample pushed 5 0 (.mem 0x2FFC) :=
  ⟨⟨rfl, rfl, rfl, rfl, rfl, trivial⟩, ⟨rfl, rfl, rfl, rfl, rfl, trivial⟩, ⟨rfl, rfl, rfl, rfl⟩, ⟨rfl, rfl, rfl, rfl, rfl⟩⟩

theorem test_witness_AbsoluteMultiply :
    MoveMet 2 2 (rg 0) (rg 1) sample sample sample 5 7 (.gpr 1) ∧
    RmwMet (fun _ _ => True) 4 4 (.imm 6) (rg 1) sample sample 6 7 (.gpr 1) :=
  ⟨⟨rfl, rfl, rfl, rfl, rfl⟩, ⟨rfl, rfl, rfl, rfl, rfl, trivial⟩⟩

/-- A quotient that fits up to its greatest value, and one that does not by one. -/
theorem test_witness_ExtendedIntegers :
    PairMet (fun _ _ _ => True) 1 (rg 3) (rg 0) sample sample 0 5 7 (.gpr 0) ∧
    PairMet (fun a lo hi => a ≠ 0 ∧ (lo + 2 ^ 8 * hi) / a < 2 ^ 8) 1 (.imm 8) (rg 0) sample sample 8 5 7 (.gpr 0) ∧
    PairMet (fun a lo hi => a ≠ 0 ∧ 2 ^ 8 ≤ (lo + 2 ^ 8 * hi) / a) 1 (.imm 7) (rg 0) sample sample 7 5 7 (.gpr 0) :=
  ⟨⟨rfl, rfl, rfl, rfl, rfl, trivial⟩, ⟨rfl, rfl, rfl, rfl, rfl, by decide⟩, ⟨rfl, rfl, rfl, rfl, rfl, by decide⟩⟩

theorem test_witness_Division :
    RmwMet (fun a _ => a ≠ 0) 4 4 (rg 0) (rg 1) sample sample 5 7 (.gpr 1) ∧
    (readOp .int 4 sample sample (rg 3) = .ok (0, sample) ∧ locate .int sample sample (rg 1) = .ok (.gpr 1) ∧
      sample.readLoc 4 (.gpr 1) = .ok 7 ∧ locate .int sample sample (rg 0) = .ok (.gpr 0) ∧
      sample.readPair 4 (.gpr 0) = .ok (5, 7)) ∧
    locate .int sample sample (.mode (.absolute (.d1 (-1)))) = .error (.fault .addressOutOfRange) ∧
    (locate .int sample sample (rg 1) = .ok (.gpr 1) ∧ sample.readPair 4 (.gpr 1) = .error (.fault .oddRegisterPair)) ∧
    locate .int sample sample (.mode (.absolute (.d4 0xFFFFFF))) = .ok (.mem 0xFFFFFF) ∧
    sample.readLoc 4 (.mem 0xFFFFFF) = .error (.fault .addressOutOfRange) :=
  ⟨⟨rfl, rfl, rfl, rfl, rfl, by decide⟩, ⟨rfl, rfl, rfl, rfl, rfl⟩, rfl, ⟨rfl, rfl⟩, rfl, rfl⟩

theorem test_witness_Moves :
    MoveMet 4 4 (rg 0) (.mode .tos) sample sample pushed 5 0 (.mem 0x2FFC) ∧
    StoreMet 4 (st 4) (fun _ => True) sample sample 9 (.mem 0x1004) ∧
    MoveMet 1 2 (rg 0) (rg 1) sample sample sample 5 7 (.gpr 1) ∧
    IntLen.b ≠ .d ∧ MoveMet 1 4 (rg 0) (rg 1) sample sample sample 5 7 (.gpr 1) :=
  ⟨⟨rfl, rfl, rfl, rfl, rfl⟩, ⟨rfl, rfl, trivial, rfl, rfl⟩, ⟨rfl, rfl, rfl, rfl, rfl⟩, by decide, ⟨rfl, rfl, rfl, rfl, rfl⟩⟩

theorem test_witness_Comparisons :
    readOp .int 4 sample sample (.mode .tos) = .ok (3, popped) ∧ readOp .int 4 sample popped (rg 1) = .ok (7, popped) :=
  ⟨rfl, rfl⟩

/-- A legal byte (99 the greatest) and one that is not. -/
theorem test_witness_PackedDecimal :
    RmwMet (fun a d => Decimal 1 a ∧ Decimal 1 d) 1 1 (.imm 0x99) (rg 1) sample sample 0x99 7 (.gpr 1) ∧
    RmwMet (fun a d => ¬ (Decimal 1 a ∧ Decimal 1 d)) 1 1 (.imm 0x9A) (rg 1) sample sample 0x9A 7 (.gpr 1) :=
  ⟨⟨rfl, rfl, rfl, rfl, rfl, by unfold Decimal bcdDigit; decide⟩, ⟨rfl, rfl, rfl, rfl, rfl, by unfold Decimal bcdDigit; decide⟩⟩

theorem test_witness_Bitwise :
    RmwMet (fun _ _ => True) 1 1 (rg 0) (st 4) sample sample 5 9 (.mem 0x1004) ∧
    MoveMet 1 1 (rg 0) (rg 1) sample sample sample 5 7 (.gpr 1) :=
  ⟨⟨rfl, rfl, rfl, rfl, rfl, trivial⟩, ⟨rfl, rfl, rfl, rfl, rfl⟩⟩

/-- Counts of 7 and -7 for a byte, and the first counts out of range. -/
theorem test_witness_Shifts :
    RmwMet (fun a _ => |signed 8 a| < 8) 1 1 (.imm 7) (rg 1) sample sample 7 7 (.gpr 1) ∧
    RmwMet (fun a _ => |signed 8 a| < 8) 1 1 (.imm 0xF9) (rg 1) sample sample 0xF9 7 (.gpr 1) ∧
    RmwMet (fun a _ => 8 ≤ |signed 8 a|) 1 1 (.imm 8) (rg 1) sample sample 8 7 (.gpr 1) ∧
    RmwMet (fun a _ => 8 ≤ |signed 8 a|) 1 1 (.imm 0xF8) (rg 1) sample sample 0xF8 7 (.gpr 1) :=
  ⟨⟨rfl, rfl, rfl, rfl, rfl, by decide⟩, ⟨rfl, rfl, rfl, rfl, rfl, by decide⟩, ⟨rfl, rfl, rfl, rfl, rfl, by decide⟩,
    ⟨rfl, rfl, rfl, rfl, rfl, by decide⟩⟩

theorem test_witness_SaveCondition : StoreMet 1 (rg 1) (fun _ => True) sample sample 7 (.gpr 1) ∧
    StoreMet 4 (.mode .tos) (fun _ => True) sample pushed 0 (.mem 0x2FFC) := ⟨⟨rfl, rfl, trivial, rfl, rfl⟩, ⟨rfl, rfl, trivial, rfl, rfl⟩⟩

/-- Bit 31 of a register, and bit -1 of a byte in memory. -/
theorem test_witness_BitOperations :
    (sample.mem.wf = true ∧ sample.cut = .never ∧ readOp .int 1 sample sample (.imm 31) = .ok (31, sample) ∧
      locate .int sample sample (rg 1) = .ok (.gpr 1) ∧ BitIn (.gpr 1) (signed 8 31) (.gpr 1) 4 31 ∧
      sample.readLoc 4 (.gpr 1) = .ok 7) ∧
    (readOp .int 1 sample sample (.imm 0xFF) = .ok (255, sample) ∧
      locate .int sample sample (st 4) = .ok (.mem 0x1004) ∧ BitIn (.mem 0x1004) (signed 8 255) (.mem 0x1003) 1 7 ∧
      sample.readLoc 1 (.mem 0x1003) = .ok 0) := by
  refine ⟨⟨rfl, rfl, rfl, rfl, ⟨rfl, rfl, by decide, by decide⟩, rfl⟩, rfl, rfl, ⟨0x1003, rfl, rfl, ?_, by decide, ?_⟩, rfl⟩ <;>
    (rw [show signed 8 255 = -1 from by decide, show ⌊((-1 : ℤ) : ℚ) / 8⌋ = -1 from by norm_num]; decide)

/-- A 1 bit at the offset, none at or above the last one, and an offset of the length. -/
theorem test_witness_FindFirstSet :
    (sample.mem.wf = true ∧ sample.cut = .never) ∧
    (readOp .int 1 sample sample (.imm 4) = .ok (4, sample) ∧ locate .int sample sample (rg 2) = .ok (.gpr 2) ∧
      sample.readLoc 1 (.gpr 2) = .ok 0 ∧ (4).testBit 2 = true ∧ ∀ j, j < 2 → (4).testBit j = false) ∧
    (locate .int sample sample (rg 1) = .ok (.gpr 1) ∧ sample.readLoc 1 (.gpr 1) = .ok 7 ∧ 7 < IntLen.b.bits ∧
      ∀ k < 8, 7 ≤ k → (4).testBit k = false) := ⟨⟨rfl, rfl⟩, ⟨rfl, rfl, rfl, rfl, by decide⟩, rfl, rfl, by decide, by decide⟩

/-- All of a register, and a field that begins 13 bits below its base (R342). -/
theorem test_witness_ExtractField :
    StoreMet 4 (rg 3) (fun s => (Disp.d1 32).value = (32 : Nat) ∧ 1 ≤ 32 ∧ locate .int s s (rg 1) = .ok (.gpr 1) ∧
      FieldIn (.gpr 1) s.r[(2 : Fin 8)].toInt 32 (.gpr 1) 0 ∧ s.readLoc 4 (.gpr 1) = .ok 7) sample sample 0 (.gpr 3) ∧
    FieldIn (.mem 0x1003) (-13) 3 (.mem 0x1001) 3 ∧
    StoreMet 4 (rg 3) (fun s => 32 = (31#5).toNat + 1 ∧ locate .int s s (st 4) = .ok (.mem 0x1004) ∧
      FieldIn (.mem 0x1004) ((0#3).toNat : Int) 32 (.mem 0x1004) 0 ∧ s.readLoc 4 (.mem 0x1004) = .ok 9)
      sample sample 0 (.gpr 3) := by
  refine ⟨⟨rfl, rfl, ⟨by decide, by decide, rfl, ⟨by decide, rfl, by decide, by decide⟩, rfl⟩, rfl, rfl⟩,
    ⟨by decide, 0x1001, rfl, ?_, by decide, ?_⟩,
    ⟨rfl, rfl, ⟨by decide, rfl, ⟨by decide, 0x1004, rfl, ?_, by decide, ?_⟩, rfl⟩, rfl, rfl⟩⟩ <;>
    (first | rw [show ⌊((-13 : ℤ) : ℚ) / 8⌋ = -2 from by norm_num] | norm_num) <;> decide

theorem test_witness_InsertField :
    sample.mem.wf = true ∧ sample.cut = .never ∧ readOp .int 4 sample sample (rg 0) = .ok (5, sample) ∧
    locate .int sample sample (rg 1) = .ok (.gpr 1) ∧ FieldIn (.gpr 1) 31 1 (.gpr 1) 31 ∧
    sample.readLoc 4 (.gpr 1) = .ok 7 ∧ (Disp.d1 1).value = (1 : Nat) ∧ 1 = (0#5).toNat + 1 ∧
    (withRegs [(2, 31)]).r[(2 : Fin 8)].toInt = 31 :=
  ⟨rfl, rfl, rfl, rfl, ⟨by decide, rfl, by decide, by decide⟩, rfl, by decide, by decide, by decide⟩

/-- Lengths of 0, 33, 3 bytes of words and 16 bytes; R1 as a pair; bits -1 and 32; a field past bit 31; +0 to F1;
the field of 26 bits at bit 7. -/
theorem test_witness_UndefinedOperands :
    ((Disp.d1 0).value < 1 ∧ 32 < (Disp.d1 33).value ∧
      (∀ k : Nat, k * IntLen.w.bytes < 16 → (Disp.d1 3).value ≠ k * IntLen.w.bytes) ∧
      ∀ k : Nat, k * IntLen.b.bytes < 16 → (Disp.d1 16).value ≠ k * IntLen.b.bytes) ∧
    ((1 : Fin 8).val % 2 = 1 ∧ readOp .int 1 sample sample (rg 0) = .ok (5, sample) ∧ sample.cfgF = true) ∧
    (readOp .int 1 sample sample (.imm 0xFF) = .ok (255, sample) ∧ signed 8 255 < 0 ∧
      readOp .int 1 sample sample (.imm 32) = .ok (32, sample) ∧ 32 ≤ signed 8 32) ∧
    (readOp .fp 8 sample sample (rg 0) = .ok (0, sample) ∧ ¬ Reserved .double 0 ∧
      readOp .fp 4 sample sample (rg 0) = .ok (0, sample) ∧ ¬ Reserved .single 0) ∧
    (32 < (withRegs [(2, 31)]).r[(2 : Fin 8)].toInt + (Disp.d1 2).value ∧ 1 ≤ (Disp.d1 2).value ∧
      32 < ((7 : BitVec 3).toNat : Int) + ((25 : BitVec 5).toNat + 1 : Nat)) ∧
    (locate .int sample sample (st 4) = .ok (.mem 0x1004) ∧ ⌊((7 : Int) : ℚ) / 8⌋ = 0 ∧
      32 < (7 : Int) - 8 * 0 + (Disp.d1 26).value) := by
  refine ⟨⟨by decide, by decide, ?_, ?_⟩, ⟨by decide, rfl, rfl⟩, ⟨rfl, by decide, rfl, by decide⟩,
    ⟨rfl, ?_, rfl, ?_⟩, ⟨by decide, by decide, by decide⟩, rfl, by norm_num, by decide⟩
  · rw [show (Disp.d1 3).value = 3 from by decide, show IntLen.w.bytes = 2 from rfl]; omega
  · rw [show (Disp.d1 16).value = 16 from by decide, show IntLen.b.bytes = 1 from rfl]; omega
  all_goals norm_num [Reserved, expField, fracField, fracBits, expBits]

/-- In Static Memory mode, through the Link Table, and onto the stack. -/
theorem test_witness_AddressStores :
    StoreMet 4 (.mode .tos) (fun s => addrOf s s (st 4) = .ok 0x1004) sample pushed 0 (.mem 0x2FFC) ∧
    StoreMet 4 (rg 1) (fun s => addrOf s s (.mode (.ext (.d1 3) (.d1 0))) = .ok 0) sample sample 7 (.gpr 1) :=
  ⟨⟨rfl, rfl, rfl, rfl, rfl⟩, ⟨rfl, rfl, rfl, rfl, rfl⟩⟩

/-- R0 = 1, R1 and R2 in memory, an element 0 and a table at R3. -/
def stringState : State := withRegs [(0, 1), (1, 0x2000), (2, 0x2100), (3, 0x2200), (4, 1)]

/-- An element that does not match: with no option, Until 1, and through the table. -/
theorem test_witness_StringElement :
    (stringState.mem.wf = true ∧ stringState.cut = .never ∧ 0 < stringState.r[(0 : Fin 8)].toNat ∧ stringState.r[(0 : Fin 8)].toNat < 2 ^ 31 ∧
      stringState.memRead stringState.r[(1 : Fin 8)] 1 = .ok 0 ∧ stringState.memRead stringState.r[(2 : Fin 8)] 1 = .ok 0 ∧
      stringState.memRead (stringState.r[(3 : Fin 8)] + BitVec.ofNat 32 0) 1 = .ok 0) ∧
    ¬ Matches ⟨false, .none⟩ 0 (stringState.r[(4 : Fin 8)].toNat % 256 ^ 1) ∧
    ¬ Matches ⟨true, .until⟩ 0 (stringState.r[(4 : Fin 8)].toNat % 256 ^ 1) :=
  ⟨⟨rfl, rfl, by decide, by decide, rfl, rfl, rfl⟩, by unfold Matches; decide, by unfold Matches; decide⟩

/-- R0 = 0; a While match; an unequal pair; R0 = 2^31. -/
theorem test_witness_StringEnd :
    State.reset.r[(0 : Fin 8)] = 0 ∧
    Matches ⟨false, .while⟩ 0 (stringState.r[(4 : Fin 8)].toNat % 256 ^ 1) ∧
    ((poke 0x2100 [1] stringState).memRead (poke 0x2100 [1] stringState).r[(1 : Fin 8)] 1 = .ok 0 ∧
      (poke 0x2100 [1] stringState).memRead (poke 0x2100 [1] stringState).r[(2 : Fin 8)] 1 = .ok 1) ∧
    2 ^ 31 ≤ (withRegs [(0, 0x80000000)]).r[(0 : Fin 8)].toNat :=
  ⟨rfl, by unfold Matches; decide, ⟨rfl, rfl⟩, by decide⟩

/-- A whole block of 16 bytes and one element. -/
theorem test_witness_BlockMove :
    (sample.mem.wf = true ∧ sample.cut = .never ∧ 4 * IntLen.d.bytes ≤ 16 ∧ (Disp.d1 12).value = ((4 - 1) * IntLen.d.bytes : Nat) ∧
      (Disp.d1 0).value = ((1 - 1) * IntLen.d.bytes : Nat)) ∧
    addrOf sample sample (st 4) = .ok 0x1004 ∧ addrOf sample sample (st 32) = .ok 0x1020 ∧
    sample.memRead 0x1004 16 = .ok 9 ∧ sample.memRead 0x1020 16 = .ok 0 := ⟨⟨rfl, rfl, by decide, by decide, by decide⟩, rfl, rfl, rfl, rfl⟩

/-- The first pair of two is equal, the second is not; and two equal pairs (j = m). -/
theorem test_witness_BlockCompare :
    ((Disp.d1 1).value = ((2 - 1) * IntLen.b.bytes : Nat) ∧ addrOf sample sample (st 3) = .ok 0x1003 ∧
      addrOf sample sample (st 32) = .ok 0x1020) ∧
    (sample.memRead (0x1003 + BitVec.ofNat 32 (0 * IntLen.b.bytes)) 1 = .ok 0 ∧
      sample.memRead (0x1020 + BitVec.ofNat 32 (0 * IntLen.b.bytes)) 1 = .ok 0 ∧
      sample.memRead (0x1003 + BitVec.ofNat 32 (1 * IntLen.b.bytes)) 1 = .ok 9 ∧
      sample.memRead (0x1020 + BitVec.ofNat 32 (1 * IntLen.b.bytes)) 1 = .ok 0) ∧
    sample.memRead (0x1030 + BitVec.ofNat 32 (1 * IntLen.b.bytes)) 1 = .ok 0 := ⟨⟨by decide, rfl, rfl⟩, ⟨rfl, rfl, rfl, rfl⟩, rfl⟩

theorem test_witness_CheckIndex :
    (addrOf sample sample (st 4) = .ok 0x1004 ∧ sample.memRead 0x1004 4 = .ok 9 ∧
      sample.memRead (0x1004 + BitVec.ofNat 32 4) 4 = .ok 0 ∧ readOp .int 4 sample sample (rg 0) = .ok (5, sample)) ∧
    readOp .int 4 sample sample (.mode .tos) = .ok (3, popped) ∧ readOp .int 4 sample popped (rg 1) = .ok (7, popped) :=
  ⟨⟨rfl, rfl, rfl, rfl⟩, rfl, rfl⟩

theorem test_witness_Branches :
    readOp .int 1 sample sample (rg 0) = .ok (5, sample) ∧ InPlaceMet 1 (rg 0) sample 5 (.gpr 0) := ⟨rfl, rfl, rfl, rfl, rfl⟩

/-- A stack that ends at address 0, and one in the middle of memory. -/
theorem test_witness_LocalCalls :
    (addrOf sample sample (st 4) = .ok 0x1004 ∧ sample.mem.wf = true ∧ sample.cut = .never ∧ 4 ≤ sample.sp.toNat ∧
      checkAccess (sample.sp.toNat - 4) 4 = .ok () ∧ sample.pc.toNat + instrLength (.jsr (st 4)) < 16777216 ∧
      sample.pc.toNat + instrLength (.bsr (.d1 0)) < 16777216) ∧
    (4 ≤ ({ State.reset with sp0 := 4 } : State).sp.toNat ∧
      checkAccess (({ State.reset with sp0 := 4 } : State).sp.toNat - 4) 4 = .ok ()) ∧
    checkAccess sample.sp.toNat 4 = .ok () ∧ sample.sp.toNat + 4 < 16777216 :=
  ⟨⟨rfl, rfl, rfl, by decide, rfl, by decide, by decide⟩, ⟨by decide, rfl⟩, rfl, by decide⟩

theorem test_witness_ExternalCalls :
    (sample.mod.toNat < 0xFFF1 ∧ sample.memRead (BitVec.ofNat 32 (sample.mod.toNat + 4)) 4 = .ok 0 ∧
      sample.memRead (BitVec.ofInt 32 ((0 : Nat) + 4 * (Disp.d1 0).value)) 4 = .ok 0) ∧
    (addrOf sample sample (st 4) = .ok 0x1004 ∧ sample.memRead 0x1004 4 = .ok 9) ∧
    sample.mem.wf = true ∧ sample.cut = .never ∧ 9 % 65536 < 0xFFF1 ∧ sample.pc.toNat + instrLength (.cxpd (st 4)) < 16777216 ∧
    sample.pc.toNat + instrLength (.cxp (.d1 0)) < 16777216 ∧
    8 ≤ sample.sp.toNat ∧ checkAccess (sample.sp.toNat - 8) 8 = .ok () :=
  ⟨⟨by decide, rfl, rfl⟩, ⟨rfl, rfl⟩, rfl, rfl, by decide, by decide, by decide, by decide, rfl⟩

/-- An End of Interrupt byte of 0, and a cascaded one. -/
theorem test_witness_Returns :
    sample.cut = .never ∧ sample.sp.toNat + 8 < 16777216 ∧ checkAccess sample.sp.toNat 8 = .ok () ∧
    sample.mem.readLE (sample.sp.toNat + 4) 2 < 0xFFF1 ∧ sample.flag .u = false ∧ sample.input.eoiByte.toNat < 128 ∧
    ({ State.reset with intbase := 0x800, env := [{ quiet with eoiByte := 0xF0 }] } : State).cascadeAddress 0xF0 = .ok 0 :=
  ⟨rfl, by decide, rfl, by decide, by decide, by decide, rfl⟩

theorem test_witness_ExplicitTraps :
    (Instr.flag, (0xD2 : Byte)) ∈ [(Instr.bpt, (0xF2 : Byte)), (.flag, 0xD2), (.svc, 0xE2)] ∧
    State.reset.mem.wf = true ∧ ExceptionReady State.reset State.reset.psr 8 State.reset.pc.toNat ∧
    ExceptionReady State.reset State.reset.psr 5 State.reset.pc.toNat ∧
    (({ State.reset with psr := 0x20 } : State).flag .f = true ∧ ExceptionReady { State.reset with psr := 0x20 } 0x20 7 0) ∧
    State.reset.flag .f = false :=
  ⟨by decide, rfl, reset_ready 8 (by decide), reset_ready 5 (by decide), ⟨by decide, rfl, by decide, rfl, rfl, by decide⟩,
    by decide⟩

/-- All eight registers, and none, at a stack that ends at address 0. -/
theorem test_witness_SaveRestore :
    (sample.mem.wf = true ∧ sample.cut = .never ∧ 4 * listedBelow 0xFF 8 ≤ sample.sp.toNat ∧
      checkAccess (sample.sp.toNat - 4 * listedBelow 0xFF 8) (4 * listedBelow 0xFF 8) = .ok ()) ∧
    (4 * listedBelow 0 8 ≤ ({ State.reset with sp0 := 0 } : State).sp.toNat ∧
      checkAccess (({ State.reset with sp0 := 0 } : State).sp.toNat - 4 * listedBelow 0 8) (4 * listedBelow 0 8) = .ok ()) ∧
    sample.sp.toNat + 4 * listedBelow 0xFF 8 < 16777216 ∧ checkAccess sample.sp.toNat (4 * listedBelow 0xFF 8) = .ok () :=
  ⟨⟨rfl, rfl, by decide, rfl⟩, ⟨by decide, rfl⟩, by decide, rfl⟩

/-- ENTER with a constant of 16, and of -12 with eight registers over the saved FP. -/
theorem test_witness_EnterExit :
    (sample.mem.wf = true ∧ sample.cut = .never ∧ ((0x2FEC : Nat) : Int) = sample.sp.toNat - 4 - (Disp.d1 16).value ∧
      4 ≤ sample.sp.toNat ∧ 4 * listedBelow 0x85 8 ≤ 0x2FEC ∧ checkAccess (sample.sp.toNat - 4) 4 = .ok () ∧
      checkAccess (0x2FEC - 4 * listedBelow 0x85 8) (4 * listedBelow 0x85 8) = .ok ()) ∧
    (((0x3008 : Nat) : Int) = sample.sp.toNat - 4 - (Disp.d1 (-12)).value ∧ 4 * listedBelow 0xFF 8 ≤ 0x3008 ∧
      checkAccess (0x3008 - 4 * listedBelow 0xFF 8) (4 * listedBelow 0xFF 8) = .ok ()) ∧
    sample.sp.toNat + 4 * listedBelow 0xA1 8 < 16777216 ∧ checkAccess sample.sp.toNat (4 * listedBelow 0xA1 8) = .ok () ∧
    sample.fp.toNat + 4 < 16777216 ∧ checkAccess sample.fp.toNat 4 = .ok () :=
  ⟨⟨rfl, rfl, by decide, by decide, by decide, rfl, rfl⟩, ⟨by decide, by decide, rfl⟩, by decide, rfl, by decide, rfl⟩

theorem test_witness_StackPsrAdjust : readOp .int 1 sample sample (.imm 16) = .ok (16, sample) ∧ IntLen.b = .b ∧
    IntLen.w = .w ∧ sample.flag .u = false := ⟨rfl, rfl, rfl, by decide⟩

theorem test_witness_DedicatedRegisters :
    (sample.flag .u = false ∧ readOp .int 4 sample sample (.mode .tos) = .ok (3, popped)) ∧
    StoreMet 4 (.mode .tos) (fun s => ProcReg.sp = .psr ∨ ProcReg.sp = .intbase → s.flag .u = false) sample pushed 0
      (.mem 0x2FFC) := ⟨⟨by decide, rfl⟩, ⟨rfl, rfl, fun _ => by decide, rfl, rfl⟩⟩

theorem test_witness_ConfigureWait : State.reset.flag .u = false := by decide

/-- With the MMU, each of its answers. -/
theorem test_witness_MemoryManagement :
    (({ sample with cfg := 4 } : State).cfgM = true ∧ ({ sample with cfg := 4 } : State).flag .u = false ∧
      readOp .int 4 { sample with cfg := 4 } { sample with cfg := 4 } (rg 0) = .ok (5, { sample with cfg := 4 })) ∧
    StoreMet 4 (rg 1) (fun s => s.cfgM = true ∧ s.flag .u = false) { sample with cfg := 4 } { sample with cfg := 4 } 7
      (.gpr 1) ∧
    (addrOf { sample with cfg := 4 } { sample with cfg := 4 } (st 4) = .ok 0x1004 ∧
      ({ sample with cfg := 4 } : State).input.mmu ≠ .level1Invalid ∧
      ({ sample with cfg := 4, env := [{ quiet with mmu := .level1Invalid }] } : State).input.mmu = .level1Invalid) :=
  ⟨⟨by decide, by decide, rfl⟩, ⟨rfl, rfl, by decide, rfl, rfl⟩, rfl, by decide, by decide⟩

/-- A state in whose step the read of `st 4` is aborted. -/
def spaceAborted : State := cutBy (aborts (.read 0 0x1004)) { trapState with pc := 0x9000 }

/-- Each clause: a move; a dest address that is out of range; an aborted src, with a dest whose address is not. -/
theorem test_witness_SpaceMoves : sample.mem.wf = true ∧ sample.cut = .never ∧ sample.flag .u = false ∧
    addrOf sample sample (st 4) = .ok 0x1004 ∧ addrOf sample sample (st 32) = .ok 0x1020 ∧
    sample.memRead 0x1004 4 = .ok 9 ∧ sample.memRead 0x1020 4 = .ok 0 ∧
    addrOf sample sample (.mode (.absolute (.d1 (-1)))) = .error (.fault .addressOutOfRange) ∧
    spaceAborted.flag .u = false ∧ addrOf spaceAborted spaceAborted (st 4) = .ok 0x1004 ∧
    addrOf spaceAborted spaceAborted (st 32) = .ok 0x1020 ∧
    spaceAborted.memRead 0x1004 4 = .error (.abort spaceAborted) :=
  ⟨rfl, rfl, by decide, rfl, rfl, rfl, rfl, rfl, by decide, rfl, rfl, rfl⟩

/-- R485 and R486: with an aborted src and a dest whose address is out of range MOVUSi is aborted, with its own address
on the stack, and MOVSUi stops. -/
theorem test_space_order :
    after (exec (.movusi .d (st 4) (.mode (.absolute (.d1 (-1))))) spaceAborted)
      (fun t => t.mem.readLE t.sp0.toNat 4 == 0x9000) = true ∧
    exec (.movsui .d (st 4) (.mode (.absolute (.d1 (-1))))) spaceAborted = .fault .addressOutOfRange :=
  ⟨by decide, rfl⟩

theorem test_witness_SlaveInstructions :
    (State.reset.cfgC = false ∧ State.reset.mem.wf = true ∧ ExceptionReady State.reset State.reset.psr 10 0) ∧
    (({ State.reset with cfg := 8, psr := 0x100 } : State).cfgC = true ∧
      ({ State.reset with cfg := 8, psr := 0x100 } : State).flag .u = true) ∧
    (State.reset.flag .u = false ∧ ({ State.reset with cfg := 8 } : State).cfgC = true) ∧
    State.reset.cfgM = false ∧ ({ State.reset with cfg := 0 } : State).cfgF = false :=
  ⟨⟨rfl, rfl, reset_ready 10 (by decide)⟩, by decide, by decide, by decide, by decide⟩

/-- The hypotheses of `FpClaimIf` and `FpTrapClaim`. -/
def FpMet (pre : Nat → Nat → Dword → Prop) (f : FpLen) (src dst : Gen) (s s1 : State) (a b : Nat) (l : Loc) : Prop :=
  s.mem.wf = true ∧ s.cut = .never ∧ s.cfgF = true ∧ readOp .fp f.bytes s s src = .ok (a, s1) ∧ locate .fp s s1 dst = .ok l ∧
    s1.readLoc f.bytes l = .ok b ∧ pre a b s.fsr

/-- The hypotheses of `FpMoveClaimIf`. -/
def FpMoveMet (pre : Nat → Dword → Prop) (bs bd : Bank) (ns nd : Nat) (src dst : Gen) (s s1 s2 : State) (a old : Nat)
    (l : Loc) : Prop :=
  s.mem.wf = true ∧ s.cut = .never ∧ s.cfgF = true ∧ readOp bs ns s s src = .ok (a, s1) ∧ locateWrite bd nd s s1 dst = .ok (l, s2) ∧
    s2.readLoc nd l = .ok old ∧ pre a s.fsr

/-- F0 and F1 hold two single-precision patterns. -/
abbrev two (a b : Dword) : State := withFs [(0, a), (1, b)]

/-- No single-precision pattern stands for 2^24 + 1. -/
theorem no_single (p : Nat) : fpNumber .single p ≠ 16777217 := by
  unfold fpNumber
  split
  · norm_num
  · intro h
    have hf : fracField .single p < 8388608 := Nat.mod_lt _ (by decide)
    generalize fracField .single p = x at h hf
    have hx : (0 : ℚ) ≤ x := by positivity
    have hx' : (x : ℚ) < 8388608 := by exact_mod_cast hf
    generalize ((expField .single p : Int) - expBias .single) = e at h
    have hp : (0 : ℚ) < (2 : ℚ) ^ e := by positivity
    simp only [fracBits] at h
    by_cases hn : negative .single p
    · simp only [hn, if_true] at h
      nlinarith [mul_nonneg hp.le hx]
    · simp only [hn, Bool.false_eq_true, if_false, one_mul] at h
      have h24 : e = 24 := by
        rcases lt_trichotomy e 24 with c | c | c
        · have : (2 : ℚ) ^ e ≤ (2 : ℚ) ^ (23 : ℤ) := zpow_le_zpow_right₀ (by norm_num) (by omega)
          norm_num at this h
          nlinarith
        · exact c
        · have : (2 : ℚ) ^ (25 : ℤ) ≤ (2 : ℚ) ^ e := zpow_le_zpow_right₀ (by norm_num) (by omega)
          norm_num at this h
          nlinarith
      subst h24
      norm_num at h
      have : (2 * x : ℚ) = 1 := by linarith
      have : 2 * x = 1 := by exact_mod_cast this
      omega

/-- 1 and 2 in single precision, for each of the four operations. -/
theorem test_witness_FloatArithmetic :
    FpMet (fun a b v => ¬ Reserved .single a ∧ ¬ Reserved .single b ∧
      (∀ x ∈ [fpNumber .single b + fpNumber .single a, fpNumber .single b - fpNumber .single a,
        fpNumber .single b * fpNumber .single a, fpNumber .single b / fpNumber .single a],
        fpLeast .single ≤ |x| ∧ ¬ RoundsOut .single (v.toNat / 128 % 4) x) ∧ v.getLsbD 5 = false) .single (rg 0) (rg 1)
      (two 0x3F800000 0x40000000) (two 0x3F800000 0x40000000) 0x3F800000 0x40000000 (.fpr 1) := by
  refine ⟨rfl, rfl, rfl, rfl, rfl, rfl, ?_, ?_, ?_, rfl⟩ <;>
    norm_num [Reserved, expField, fracField, fpNumber, negative, fracBits, expBits, expBias, fpLeast, fpGreatest,
      Nat.testBit, Nat.shiftRight_eq_div_pow, RoundsOut, two, withFs, State.reset, abs_lt, lt_abs]

/-- +0 + -0, 1 - 1, 0 * 1 and 0 / 1; and an underflow of each operation. -/
theorem test_witness_FloatZeros :
    FpMet (fun a b _ => ¬ Reserved .single a ∧ ¬ Reserved .single b ∧ fpNumber .single b + fpNumber .single a = 0)
      .single (rg 0) (rg 1) (two 0 0x80000000) (two 0 0x80000000) 0 0x80000000 (.fpr 1) ∧
    FpMet (fun a b _ => ¬ Reserved .single a ∧ ¬ Reserved .single b ∧ fpNumber .single b - fpNumber .single a = 0)
      .single (rg 0) (rg 1) (two 0x3F800000 0x3F800000) (two 0x3F800000 0x3F800000) 0x3F800000 0x3F800000 (.fpr 1) ∧
    FpMet (fun a b _ => ¬ Reserved .single a ∧ ¬ Reserved .single b ∧ fpNumber .single a ≠ 0 ∧ fpNumber .single b = 0 ∧
      fpNumber .single b * fpNumber .single a = 0)
      .single (rg 0) (rg 1) (two 0x3F800000 0) (two 0x3F800000 0) 0x3F800000 0 (.fpr 1) ∧
    FpMet (fun a b v => ¬ Reserved .single a ∧ ¬ Reserved .single b ∧
      (∀ x ∈ [fpNumber .single b + fpNumber .single a, fpNumber .single b * fpNumber .single a],
        x ≠ 0 ∧ |x| < fpLeast .single) ∧ v.getLsbD 3 = false)
      .single (rg 0) (rg 1) (two 0x80800000 0x00C00000) (two 0x80800000 0x00C00000) 0x80800000 0x00C00000 (.fpr 1) ∧
    FpMet (fun a b v => ¬ Reserved .single a ∧ ¬ Reserved .single b ∧ fpNumber .single b - fpNumber .single a ≠ 0 ∧
      |fpNumber .single b - fpNumber .single a| < fpLeast .single ∧ v.getLsbD 3 = false)
      .single (rg 0) (rg 1) (two 0x00800000 0x00C00000) (two 0x00800000 0x00C00000) 0x00800000 0x00C00000 (.fpr 1) ∧
    FpMet (fun a b v => ¬ Reserved .single a ∧ ¬ Reserved .single b ∧ fpNumber .single b / fpNumber .single a ≠ 0 ∧
      |fpNumber .single b / fpNumber .single a| < fpLeast .single ∧ v.getLsbD 3 = false)
      .single (rg 0) (rg 1) (two 0x40000000 0x00800000) (two 0x40000000 0x00800000) 0x40000000 0x00800000 (.fpr 1) ∧
    FpMoveMet (fun a v => ¬ Reserved .double a ∧ fpNumber .double a ≠ 0 ∧ |fpNumber .double a| < fpLeast .single ∧
        v.getLsbD 3 = false) .fp .fp 8 4 (rg 2) (rg 4)
      (withFs [(3, 0xB8000000)]) (withFs [(3, 0xB8000000)]) (withFs [(3, 0xB8000000)]) 0xB800000000000000 0 (.fpr 4) := by
  refine ⟨⟨rfl, rfl, rfl, rfl, rfl, rfl, ?_⟩, ⟨rfl, rfl, rfl, rfl, rfl, rfl, ?_⟩, ⟨rfl, rfl, rfl, rfl, rfl, rfl, ?_⟩,
    ⟨rfl, rfl, rfl, rfl, rfl, rfl, ?_, ?_, ?_, rfl⟩, ⟨rfl, rfl, rfl, rfl, rfl, rfl, ?_, ?_, ?_, ?_, rfl⟩,
    ⟨rfl, rfl, rfl, rfl, rfl, rfl, ?_, ?_, ?_, ?_, rfl⟩, ⟨rfl, rfl, rfl, rfl, rfl, rfl, ?_, ?_, ?_, rfl⟩⟩ <;>
    norm_num [Reserved, expField, fracField, fpNumber, negative, fracBits, expBits, expBias, fpLeast,
      Nat.testBit, Nat.shiftRight_eq_div_pow]

/-- A reserved operand, 0/0, 2/0, 2^127 + 2^127, the greatest number and half a unit, the same with its sign and mode
inverted, and an underflow with UEN. -/
theorem test_witness_FloatTraps :
    FpMet (fun a b _ => Reserved .single a ∨ Reserved .single b) .single (rg 0) (rg 1) (two 0x7F800000 1)
      (two 0x7F800000 1) 0x7F800000 1 (.fpr 1) ∧
    FpMet (fun a b _ => ¬ Reserved .single b ∧ ¬ Reserved .single a ∧ fpNumber .single a = 0 ∧ fpNumber .single b = 0)
      .single (rg 0) (rg 1) (two 0 0) (two 0 0) 0 0 (.fpr 1) ∧
    FpMet (fun a b _ => ¬ Reserved .single b ∧ ¬ Reserved .single a ∧ fpNumber .single a = 0 ∧ fpNumber .single b ≠ 0)
      .single (rg 0) (rg 1) (two 0 0x40000000) (two 0 0x40000000) 0 0x40000000 (.fpr 1) ∧
    FpMet (fun a b v => ¬ Reserved .single a ∧ ¬ Reserved .single b ∧
      RoundsOut .single (v.toNat / 128 % 4) (fpNumber .single b + fpNumber .single a))
      .single (rg 0) (rg 1) (two 0x7F000000 0x7F000000) (two 0x7F000000 0x7F000000) 0x7F000000 0x7F000000 (.fpr 1) ∧
    FpMet (fun a b v => ¬ Reserved .single a ∧ ¬ Reserved .single b ∧
      RoundsOut .single (v.toNat / 128 % 4) (fpNumber .single b + fpNumber .single a))
      .single (rg 0) (rg 1) (two 0x73000000 0x7F7FFFFF) (two 0x73000000 0x7F7FFFFF) 0x73000000 0x7F7FFFFF (.fpr 1) ∧
    FpMet (fun a b v => ¬ Reserved .single a ∧ ¬ Reserved .single b ∧
      RoundsOut .single (v.toNat / 128 % 4) (fpNumber .single b + fpNumber .single a))
      .single (rg 0) (rg 1) { two 0x80800000 0xFF7FFFFF with fsr := 0x180 } { two 0x80800000 0xFF7FFFFF with fsr := 0x180 }
      0x80800000 0xFF7FFFFF (.fpr 1) ∧
    FpMet (fun a b v => ¬ Reserved .single a ∧ ¬ Reserved .single b ∧ v.getLsbD 3 = true ∧
      fpNumber .single b * fpNumber .single a ≠ 0 ∧ |fpNumber .single b * fpNumber .single a| < fpLeast .single)
      .single (rg 0) (rg 1) { two 0x00800000 0x3F000000 with fsr := 8 } { two 0x00800000 0x3F000000 with fsr := 8 }
      0x00800000 0x3F000000 (.fpr 1) := by
  refine ⟨⟨rfl, rfl, rfl, rfl, rfl, rfl, ?_⟩, ⟨rfl, rfl, rfl, rfl, rfl, rfl, ?_⟩, ⟨rfl, rfl, rfl, rfl, rfl, rfl, ?_⟩,
    ⟨rfl, rfl, rfl, rfl, rfl, rfl, ?_, ?_, Or.inl ?_⟩, ⟨rfl, rfl, rfl, rfl, rfl, rfl, ?_, ?_, Or.inr (Or.inl ⟨rfl, ?_⟩)⟩,
    ⟨rfl, rfl, rfl, rfl, rfl, rfl, ?_, ?_, Or.inr (Or.inr (Or.inr ⟨rfl, ?_⟩))⟩,
    ⟨rfl, rfl, rfl, rfl, rfl, rfl, ?_, ?_, rfl, ?_, ?_⟩⟩ <;>
    norm_num [Reserved, expField, fracField, fpNumber, negative, fracBits, expBits, expBias, fpLeast, fpGreatest,
      Nat.testBit, Nat.shiftRight_eq_div_pow]

/-- 2^24 + 1 with an enabled inexact result. -/
theorem test_witness_FloatTraps_inexact :
    FpMet (fun a b v => ¬ Reserved .single a ∧ ¬ Reserved .single b ∧ v.getLsbD 5 = true ∧
      fpLeast .single ≤ |fpNumber .single b + fpNumber .single a| ∧
      ¬ RoundsOut .single (v.toNat / 128 % 4) (fpNumber .single b + fpNumber .single a) ∧
      ¬ ∃ p, p < 256 ^ FpLen.single.bytes ∧ ¬ Reserved .single p ∧
        fpNumber .single p = fpNumber .single b + fpNumber .single a)
      .single (rg 0) (rg 1) { two 0x4B800000 0x3F800000 with fsr := 0x20 } { two 0x4B800000 0x3F800000 with fsr := 0x20 }
      0x4B800000 0x3F800000 (.fpr 1) := by
  have e : fpNumber .single 0x3F800000 + fpNumber .single 0x4B800000 = 16777217 := by
    norm_num [expField, fracField, fpNumber, negative, fracBits, expBits, expBias, Nat.testBit,
      Nat.shiftRight_eq_div_pow]
  refine ⟨rfl, rfl, rfl, rfl, rfl, rfl, ?_, ?_, rfl, ?_, ?_, ?_⟩
  · norm_num [Reserved, expField, fracField, fracBits, expBits]
  · norm_num [Reserved, expField, fracField, fracBits, expBits]
  · rw [e]; norm_num [fpLeast, expBias]
  · rw [e]; norm_num [RoundsOut, fpGreatest, expBias, fracBits]
  · rintro ⟨p, -, -, h⟩
    exact no_single p (h.trans e)

/-- The hypotheses of `FpMoveTrapClaim`. -/
def FpMoveTrapMet (pre : Nat → Dword → Prop) (b : Bank) (n : Nat) (src : Gen) (s s1 : State) (a : Nat) : Prop :=
  s.cfgF = true ∧ readOp b n s s src = .ok (a, s1) ∧ pre a s.fsr

/-- F0 and F1 hold a double-precision pattern, FSR is `v`. -/
abbrev long (lo hi v : Dword) : State := { withFs [(0, lo), (1, hi)] with fsr := v }

/-- CMPf of a reserved operand; a reserved operand of each length; 2^128, 2^-127 and 2^24 + 1 for MOVLF. -/
theorem test_witness_FloatTraps_moves :
    (readOp .fp 4 (two 1 0) (two 1 0) (rg 0) = .ok (1, two 1 0) ∧ readOp .fp 4 (two 1 0) (two 1 0) (rg 1) = .ok (0, two 1 0) ∧
      Reserved .single 1) ∧
    FpMoveTrapMet (fun a _ => Reserved .single a) .fp 4 (rg 0) (two 0x7F800000 0) (two 0x7F800000 0) 0x7F800000 ∧
    FpMoveTrapMet (fun a _ => Reserved .double a) .fp 8 (rg 0) (long 0 0x7FF00000 0) (long 0 0x7FF00000 0)
      0x7FF0000000000000 ∧
    FpMoveTrapMet (fun a v => ¬ Reserved .double a ∧ RoundsOut .single (v.toNat / 128 % 4) (fpNumber .double a)) .fp 8
      (rg 0) (long 0 0x47F00000 0) (long 0 0x47F00000 0) 0x47F0000000000000 ∧
    FpMoveTrapMet (fun a v => ¬ Reserved .double a ∧ v.getLsbD 3 = true ∧ fpNumber .double a ≠ 0 ∧
      |fpNumber .double a| < fpLeast .single) .fp 8 (rg 0) (long 0 0x38000000 8) (long 0 0x38000000 8)
      0x3800000000000000 := by
  refine ⟨⟨rfl, rfl, ?_⟩, ⟨rfl, rfl, ?_⟩, ⟨rfl, rfl, ?_⟩, ⟨rfl, rfl, ?_, Or.inl ?_⟩, ⟨rfl, rfl, ?_, rfl, ?_, ?_⟩⟩ <;>
    norm_num [Reserved, expField, fracField, fpNumber, negative, fracBits, expBits, expBias, fpLeast, fpGreatest,
      Nat.testBit, Nat.shiftRight_eq_div_pow]

/-- 2^24 + 1 as a double-precision number and as an integer, with an enabled inexact result. -/
theorem test_witness_FloatTraps_conversions :
    FpMoveTrapMet (fun a v => ¬ Reserved .double a ∧ v.getLsbD 5 = true ∧ fpLeast .single ≤ |fpNumber .double a| ∧
      ¬ RoundsOut .single (v.toNat / 128 % 4) (fpNumber .double a) ∧
      ¬ ∃ p, p < 2 ^ 32 ∧ ¬ Reserved .single p ∧ fpNumber .single p = fpNumber .double a) .fp 8 (rg 0)
      (long 0x10000000 0x41700000 0x20) (long 0x10000000 0x41700000 0x20) 0x4170000010000000 ∧
    FpMoveTrapMet (fun a v => v.getLsbD 5 = true ∧ ¬ ∃ p, p < 256 ^ FpLen.single.bytes ∧ ¬ Reserved .single p ∧
      fpNumber .single p = signed 32 a) .int 4 (rg 0) { withRegs [(0, 16777217)] with fsr := 0x20 }
      { withRegs [(0, 16777217)] with fsr := 0x20 } 16777217 := by
  have e : fpNumber .double 0x4170000010000000 = 16777217 := by
    norm_num [expField, fracField, fpNumber, negative, fracBits, expBits, expBias, Nat.testBit,
      Nat.shiftRight_eq_div_pow]
  refine ⟨⟨rfl, rfl, ?_, rfl, ?_, ?_, ?_⟩, rfl, rfl, rfl, ?_⟩
  · norm_num [Reserved, expField, fracField, fracBits, expBits]
  · rw [e]; norm_num [fpLeast, expBias]
  · rw [e]; norm_num [RoundsOut, fpGreatest, expBias, fracBits]
  · rintro ⟨p, -, -, h⟩
    exact no_single p (h.trans e)
  · rintro ⟨p, -, -, h⟩
    exact no_single p (by rw [h, show signed 32 16777217 = 16777217 from by decide]; norm_num)

/-- 128 as a byte, and one half with an enabled inexact result, for each of the three conversions. -/
theorem test_witness_FloatTraps_integers :
    FpMoveTrapMet (fun a _ => ¬ Reserved .single a ∧ ∃ n, nearestInt (fpNumber .single a) n ∧
      n = truncated (fpNumber .single a) ∧ n = ⌊fpNumber .single a⌋ ∧ Overflows 8 n) .fp 4 (rg 0) (two 0x43000000 0)
      (two 0x43000000 0) 0x43000000 ∧
    FpMoveTrapMet (fun a v => ¬ Reserved .single a ∧ v.getLsbD 5 = true ∧ (¬ ∃ n : Int, fpNumber .single a = n) ∧
      ∃ n, nearestInt (fpNumber .single a) n ∧ n = truncated (fpNumber .single a) ∧ n = ⌊fpNumber .single a⌋ ∧
        ¬ Overflows 8 n) .fp 4 (rg 0) { two 0x3F000000 0 with fsr := 0x20 } { two 0x3F000000 0 with fsr := 0x20 }
      0x3F000000 := by
  have e : fpNumber .single 0x43000000 = 128 := by
    norm_num [expField, fracField, fpNumber, negative, fracBits, expBits, expBias, Nat.testBit,
      Nat.shiftRight_eq_div_pow]
  have e' : fpNumber .single 0x3F000000 = 1 / 2 := by
    norm_num [expField, fracField, fpNumber, negative, fracBits, expBits, expBias, Nat.testBit,
      Nat.shiftRight_eq_div_pow]
  refine ⟨⟨rfl, rfl, ?_, 128, ?_⟩, rfl, rfl, ?_, rfl, ?_, 0, ?_⟩
  · norm_num [Reserved, expField, fracField, fracBits, expBits]
  · rw [e]; norm_num [nearestInt, truncated, Overflows]
  · norm_num [Reserved, expField, fracField, fracBits, expBits]
  · rw [e']
    rintro ⟨n, h⟩
    have h2 : (2 * n : ℚ) = 1 := by linarith
    have h3 : 2 * n = 1 := by exact_mod_cast h2
    omega
  · rw [e']; norm_num [nearestInt, truncated, Overflows]

/-- A double-precision number in F2 and F3, and a reserved pattern for MOVf. -/
theorem test_witness_FloatMovesCompare :
    FpMoveMet (fun a _ => ¬ Reserved .double a) .fp .fp 8 8 (rg 2) (rg 4) (withFs [(3, 0x3FF00000)])
      (withFs [(3, 0x3FF00000)]) (withFs [(3, 0x3FF00000)]) 0x3FF0000000000000 0 (.fpr 4) ∧
    FpMoveMet (fun _ _ => True) .fp .fp 4 4 (rg 0) (.mode .tos) (two 0x7F800000 0) (two 0x7F800000 0)
      ((two 0x7F800000 0).setSp 0x2FFC) 0x7F800000 0 (.mem 0x2FFC) ∧
    (readOp .fp 4 (two 0 1) (two 0 1) (rg 0) = .ok (0, two 0 1) ∧
      readOp .fp 4 (two 0 0x80000000) (two 0 0x80000000) (rg 1) = .ok (0x80000000, two 0 0x80000000) ∧
      ¬ Reserved .single 0 ∧ ¬ Reserved .single 0x80000000) := by
  refine ⟨⟨rfl, rfl, rfl, rfl, rfl, rfl, ?_⟩, ⟨rfl, rfl, rfl, rfl, rfl, rfl, trivial⟩, rfl, rfl, ?_, ?_⟩ <;>
    norm_num [Reserved, expField, fracField, fracBits, expBits]

/-- The integers 5 and 0, the numbers 1 and -0, and 1 to be rounded to an integer. -/
theorem test_witness_FloatConversions :
    FpMoveMet (fun a v => signed 32 a ≠ 0 ∧ v.getLsbD 5 = false) .int .fp 4 4 (rg 0) (rg 1) sample sample sample 5 0
      (.fpr 1) ∧
    FpMoveMet (fun a _ => signed 32 a = 0) .int .fp 4 4 (rg 2) (rg 1) sample sample sample 0 0 (.fpr 1) ∧
    FpMoveMet (fun a v => ¬ Reserved .double a ∧ fpLeast .single ≤ |fpNumber .double a| ∧
      ¬ RoundsOut .single (v.toNat / 128 % 4) (fpNumber .double a) ∧ v.getLsbD 5 = false) .fp .fp 8 4 (rg 2) (rg 4)
      (withFs [(3, 0x3FF00000)]) (withFs [(3, 0x3FF00000)]) (withFs [(3, 0x3FF00000)]) 0x3FF0000000000000 0 (.fpr 4) ∧
    FpMoveMet (fun a _ => ¬ Reserved .double a ∧ fpNumber .double a = 0) .fp .fp 8 4 (rg 2) (rg 4)
      (withFs [(3, 0x80000000)]) (withFs [(3, 0x80000000)]) (withFs [(3, 0x80000000)]) 0x8000000000000000 0 (.fpr 4) ∧
    FpMoveMet (fun a _ => ¬ Reserved .single a) .fp .fp 4 8 (rg 0) (rg 2) (two 0x3F800000 0) (two 0x3F800000 0)
      (two 0x3F800000 0) 0x3F800000 0 (.fpr 2) := by
  refine ⟨⟨rfl, rfl, rfl, rfl, rfl, rfl, by decide, rfl⟩, ⟨rfl, rfl, rfl, rfl, rfl, rfl, by decide⟩,
    ⟨rfl, rfl, rfl, rfl, rfl, rfl, ?_, ?_, ?_, rfl⟩, ⟨rfl, rfl, rfl, rfl, rfl, rfl, ?_⟩, ⟨rfl, rfl, rfl, rfl, rfl, rfl, ?_⟩⟩ <;>
    norm_num [Reserved, expField, fracField, fpNumber, negative, fracBits, expBits, expBias, fpLeast, fpGreatest,
      Nat.testBit, Nat.shiftRight_eq_div_pow, RoundsOut, withFs, State.reset, abs_lt, lt_abs]

/-- ROUNDfi, TRUNCfi and FLOORfi of 1 give the byte 1. -/
theorem test_witness_FloatConversions_integers :
    FpMoveMet (fun a v => ¬ Reserved .single a ∧
      (∃ n, nearestInt (fpNumber .single a) n ∧ n = truncated (fpNumber .single a) ∧ n = ⌊fpNumber .single a⌋ ∧
        ¬ Overflows 8 n) ∧ v.getLsbD 5 = false) .fp .int 4 1 (rg 0) (rg 1) (two 0x3F800000 0) (two 0x3F800000 0)
      (two 0x3F800000 0) 0x3F800000 0 (.gpr 1) := by
  have e : fpNumber .single 0x3F800000 = 1 := by
    norm_num [expField, fracField, fpNumber, negative, fracBits, expBits, expBias, Nat.testBit,
      Nat.shiftRight_eq_div_pow]
  refine ⟨rfl, rfl, rfl, rfl, rfl, rfl, ?_, ⟨1, ?_⟩, rfl⟩
  · norm_num [Reserved, expField, fracField, fracBits, expBits]
  · rw [e]; norm_num [nearestInt, truncated, Overflows]

theorem test_witness_FloatStatus :
    (sample.cfgF = true ∧ readOp .int 4 sample sample (rg 0) = .ok (5, sample)) ∧
    StoreMet 4 (rg 1) (fun s => s.cfgF = true) sample sample 7 (.gpr 1) ∧ State.reset.cfgF = true ∧
    ExceptionReady State.reset State.reset.psr 3 State.reset.pc.toNat :=
  ⟨⟨rfl, rfl⟩, ⟨rfl, rfl, rfl, rfl, rfl⟩, rfl, reset_ready 3 (by decide)⟩

end Sys2Proof.Tests
end

section
/-! PROOFS. The byte order of data in memory (20_memory.md R82). -/
namespace Sys2Proof.Machine

/-! ## The bytes of a value of several bytes -/

/-- A value read is the sum of its bytes, the least significant at the lowest address (R82). -/
theorem Memory.readLE_eq_sum (m : Memory) (a n : Nat) :
    m.readLE a n = ∑ k ∈ Finset.range n, 256 ^ k * (Memory.read m (a + k)).toNat := by
  induction n generalizing a with
  | zero => rfl
  | succ n ih =>
    rw [Memory.readLE, ih (a + 1), Finset.sum_range_succ', Finset.mul_sum, Nat.add_comm]
    congr 1
    · refine Finset.sum_congr rfl fun k _ => ?_
      rw [Nat.pow_succ', Nat.mul_assoc, Nat.add_assoc, Nat.add_comm 1 k]
    · simp

/-- Byte k of a value just stored lies k bytes above its address (R82). -/
theorem Memory.read_writeLE_inside {m : Memory} {a n v k : Nat} (h : m.wf = true) (hm : a + n ≤ Config.memSize)
    (hk : k < n) : Memory.read (m.writeLE a n v) (a + k) = BitVec.ofNat 8 (v / 256 ^ k) := by
  induction n generalizing m a v k with
  | zero => omega
  | succ n ih =>
    have hw := Memory.wf_write (x := a) h (by omega) (BitVec.ofNat 8 v)
    rw [Memory.writeLE]
    cases k with
    | zero =>
      rw [Memory.read_writeLE_outside hw (by omega) (Or.inl (by omega)), Nat.add_zero,
        Memory.read_write_same (lo := 0) h, Nat.pow_zero, Nat.div_one]
    | succ k =>
      rw [show a + (k + 1) = a + 1 + k by omega, ih hw (by omega) (by omega), Nat.div_div_eq_div_mul, Nat.pow_succ']

/-! ## MemRead and MemWrite -/

/-- Where no abort is to come, an allowed read answers the bytes of memory. -/
theorem State.memRead_never {s : State} {a : Dword} {n : Nat} (hx : s.cut = .never)
    (hc : checkAccess a.toNat n = .ok ()) : s.memRead a n = .ok (s.mem.readLE a.toNat n) :=
  State.memRead_ok.2 ⟨State.abortsRead_none hx _ _, hc, rfl⟩

/-- Where neither an abort nor a Reset is to come, an allowed write changes memory alone. -/
theorem State.memWrite_never {s : State} {a : Dword} {n : Nat} (v : Nat) (hx : s.cut = .never)
    (hc : checkAccess a.toNat n = .ok ()) :
    s.memWrite a n v = .ok { s with mem := s.mem.writeLE a.toNat n v } :=
  State.memWrite_ok.2 ⟨⟨by simp [hx], State.abortsWrite_none hx⟩, hc, by simp [hx]⟩

/-- Settles O18: both accesses run over `readLE` and `writeLE`, whose bytes the lemmas above give one by one. -/
theorem byteOrder : Obligations.ByteOrder := by
  intro s a n v hw hx _ hc
  have hm := (checkAccess_ok.1 hc).1
  refine ⟨?_, _, State.memWrite_never v hx hc, fun x => Memory.read_writeLE_outside hw hm, fun k hk => ?_⟩
  · rw [State.memRead_never hx hc, Memory.readLE_eq_sum]
  · rw [Memory.read_writeLE_inside hw hm hk, BitVec.toNat_ofNat, Nat.pow_mul]

end Sys2Proof.Machine
end

section
/-! PROOFS. Entering a service procedure: what the pushes, the module load and the entry sequence complete with where
nothing cuts them short (60_exceptions.md R519, R521, R523). -/
namespace Sys2Proof.Machine

/-! ## Accesses -/

/-- The bytes of an access that do not cover an address lie above or below it. -/
theorem covers_false {a n x : Nat} : covers a n x = false ↔ x < a ∨ a + n ≤ x := by
  rw [covers, Bool.and_eq_false_iff, decide_eq_false_iff_not, decide_eq_false_iff_not]
  omega

/-- Part of an allowed access is allowed. -/
theorem checkAccess_part {a b m n : Nat} (h : checkAccess a n = .ok ()) (hl : a ≤ b) (hr : b + m ≤ a + n) :
    checkAccess b m = .ok () := by
  obtain ⟨hm, hk, hn⟩ := checkAccess_ok.1 h
  rw [covers_false] at hk hn
  exact checkAccess_ok.2 ⟨by omega, covers_false.2 (by omega), covers_false.2 (by omega)⟩

/-- Below the device addresses every access is allowed. -/
theorem checkAccess_low {a n : Nat} (h : a + n ≤ Config.ackAddr) : checkAccess a n = .ok () :=
  checkAccess_ok.2 ⟨h.trans (by decide), covers_false.2 (Or.inr h),
    covers_false.2 (Or.inr (h.trans (by decide)))⟩

/-- A 24-bit register keeps its value where it is read as 32 bits (R24). -/
theorem ext24_toNat (v : AddrReg) : (ext24 v).toNat = v.toNat := by
  have := v.isLt
  simp only [ext24, BitVec.toNat_setWidth]
  omega

/-- A value apart from the bytes just stored reads as before. -/
theorem Memory.readLE_writeLE_outside {m : Memory} {a b k n v : Nat} (h : m.wf = true)
    (hm : a + n ≤ Config.memSize) (hb : b + k ≤ a ∨ a + n ≤ b) : (m.writeLE a n v).readLE b k = m.readLE b k :=
  Memory.readLE_congr fun _ _ _ => Memory.read_writeLE_outside h hm (by omega)

/-! ## Pushes -/

/-- With nothing to come, an allowed push moves the selected stack pointer and stores its value (R88). -/
theorem State.push_never {s : State} {n : Nat} (v : Nat) (hx : s.cut = .never) (hn : n ≤ s.sp.toNat)
    (hc : checkAccess (s.sp.toNat - n) n = .ok ()) :
    s.push n v = .ok { s.setSp (BitVec.ofNat 24 (s.sp.toNat - n)) with
      mem := s.mem.writeLE (s.sp.toNat - n) n v } := by
  have ha : (ext24 (BitVec.ofNat 24 (s.sp.toNat - n))).toNat = s.sp.toNat - n := by
    have := s.sp.isLt
    rw [ext24_toNat, BitVec.toNat_ofNat]
    omega
  have hw := State.memWrite_never (s := s.setSp (BitVec.ofNat 24 (s.sp.toNat - n))) v (by simpa using hx)
    (by rw [ha]; exact hc)
  rw [ha, State.setSp_mem] at hw
  rw [State.push, if_neg (by omega)]
  exact hw

/-- `s` with `k` bytes more on the Interrupt Stack and memory `m`. -/
def State.stacked (s : State) (k : Nat) (m : Memory) : State :=
  { s with sp0 := BitVec.ofNat 24 (s.sp0.toNat - k), mem := m }

@[simp] theorem State.stacked_sp0 (s : State) (k : Nat) (m : Memory) :
    (s.stacked k m).sp0.toNat = s.sp0.toNat - k := by
  have := s.sp0.isLt
  rw [State.stacked, BitVec.toNat_ofNat]
  omega

@[simp] theorem State.stacked_mem (s : State) (k : Nat) (m : Memory) : (s.stacked k m).mem = m := rfl
@[simp] theorem State.stacked_mod (s : State) (k : Nat) (m : Memory) : (s.stacked k m).mod = s.mod := rfl
@[simp] theorem State.stacked_intbase (s : State) (k : Nat) (m : Memory) :
    (s.stacked k m).intbase = s.intbase := rfl
@[simp] theorem State.stacked_cut (s : State) (k : Nat) (m : Memory) : (s.stacked k m).cut = s.cut := rfl
@[simp] theorem State.stacked_flag (s : State) (k : Nat) (m : Memory) (g : Flag) :
    (s.stacked k m).flag g = s.flag g := rfl

/-- What is stacked twice is stacked once. -/
@[simp] theorem State.stacked_stacked (s : State) (j k : Nat) (m n : Memory) :
    (s.stacked j m).stacked k n = s.stacked (j + k) n := by
  rw [State.stacked, State.stacked_sp0, Nat.sub_sub]
  rfl

/-- With PSR.S clear the push is on the Interrupt Stack (R26). -/
theorem State.push_sp0 {s : State} {n : Nat} (v : Nat) (hx : s.cut = .never) (hs : s.flag .s = false)
    (hn : n ≤ s.sp0.toNat) (hc : checkAccess (s.sp0.toNat - n) n = .ok ()) :
    s.push n v = .ok (s.stacked n (s.mem.writeLE (s.sp0.toNat - n) n v)) := by
  have hsp : s.sp = s.sp0 := by simp [State.sp, hs]
  rw [State.push_never v hx (by rw [hsp]; exact hn) (by rw [hsp]; exact hc), hsp]
  simp [State.setSp, hs, State.stacked]

/-! ## Modules -/

/-- A number below 0xFFF1 is the address of a module (R29, R92). -/
theorem moduleAddr_of_lt {m : Word} (h : m.toNat < 0xFFF1) : moduleAddr m = .ok (m.setWidth 32) := by
  rw [moduleAddr, if_neg (by omega)]

/-- With nothing to come, a module is loaded from its descriptor (R30). -/
theorem State.loadModule_never {s : State} {m : Word} (hx : s.cut = .never) (hm : m.toNat < 0xFFF1) :
    s.loadModule m = .ok { s with mod := m, sb := low24 (s.mem.readLE m.toNat 4) } := by
  have ha : (m.setWidth 32).toNat = m.toNat := by
    rw [BitVec.toNat_setWidth]; omega
  have hr := State.memRead_never (a := m.setWidth 32) (n := 4) hx
    (checkAccess_low (by simp only [ha, Config.ackAddr]; omega))
  simp only [State.loadModule, moduleAddr_of_lt hm, hr, ha, bind, Except.bind]

/-- `s` in the procedure that the descriptor `d` names (R411). -/
def State.inProcedure (s : State) (d : Nat) : State :=
  { s with
    mod := BitVec.ofNat 16 d
    sb := low24 (s.mem.readLE (d % 65536) 4)
    pc := low24 (s.mem.readLE (d % 65536 + 8) 4 + d / 65536) }

/-- With nothing to come, a descriptor that names a module enters its procedure (R94, R411). -/
theorem State.enterProcedure_never {s : State} {d : Nat} (hx : s.cut = .never) (hd : d % 65536 < 0xFFF1) :
    s.enterProcedure d = .ok (s.inProcedure d) := by
  have hmod : (BitVec.ofNat 16 d).toNat = d % 65536 := BitVec.toNat_ofNat ..
  have hm : (BitVec.ofNat 16 d).toNat < 0xFFF1 := by rwa [hmod]
  have ha : ((BitVec.ofNat 16 d).setWidth 32 + 8#32).toNat = d % 65536 + 8 := by
    rw [BitVec.toNat_add, BitVec.toNat_setWidth, hmod, BitVec.toNat_ofNat]; omega
  have hread (t : State) (ht : t.cut = .never) :
      t.memRead ((BitVec.ofNat 16 d).setWidth 32 + 8#32) 4 = .ok (t.mem.readLE (d % 65536 + 8) 4) := by
    rw [State.memRead_never ht (checkAccess_low (by simp only [ha, Config.ackAddr]; omega)), ha]
  have hpc (b : Nat) : low24 (BitVec.ofNat 32 b).toNat = low24 b := by
    simp only [low24]
    bv_omega
  simp only [State.enterProcedure, State.loadModule_never hx hm, moduleAddr_of_lt hm, hread, hx, hmod, bind,
    Except.bind, State.goto, hpc, State.inProcedure]

/-! ## The entry sequence -/

/-- Memory once Service has pushed MOD and a return address on SP0 (R519). -/
def servicePushed (s : State) (ra : Nat) : Memory :=
  (s.mem.writeLE (s.sp0.toNat - 2) 2 s.mod.toNat).writeLE (s.sp0.toNat - 6) 4 ra

/-- Service completes where SP0 has room, the vector can be read and its descriptor names a module (R519). -/
theorem State.service_never {s : State} {v : Nat} {ra : AddrReg} (hx : s.cut = .never) (hs : s.flag .s = false)
    (hn : 6 ≤ s.sp0.toNat) (hc : checkAccess (s.sp0.toNat - 6) 6 = .ok ())
    (hv : checkAccess (s.intbase.toNat + 4 * v) 4 = .ok ())
    (hd : (servicePushed s ra.toNat).readLE (s.intbase.toNat + 4 * v) 4 % 65536 < 0xFFF1) :
    s.service v ra = .ok ((s.stacked 6 (servicePushed s ra.toNat)).inProcedure
      ((servicePushed s ra.toNat).readLE (s.intbase.toNat + 4 * v) 4)) := by
  have hmod := State.push_sp0 s.mod.toNat hx hs (n := 2) (by omega) (checkAccess_part hc (by omega) (by omega))
  have hret := State.push_sp0 (s := s.stacked 2 (s.mem.writeLE (s.sp0.toNat - 2) 2 s.mod.toNat)) ra.toNat hx hs
    (n := 4) (by simp; omega) (by simpa using checkAccess_part hc (by omega) (by omega))
  simp only [State.stacked_stacked, State.stacked_sp0, State.stacked_mem, Nat.sub_sub, Nat.reduceAdd] at hret
  have hva : (ext24 s.intbase + BitVec.ofNat 32 (4 * v)).toNat = s.intbase.toNat + 4 * v := by
    have hin := (checkAccess_ok.1 hv).1
    simp only [Config.memSize] at hin
    rw [BitVec.toNat_add, ext24_toNat, BitVec.toNat_ofNat]
    omega
  have hdesc := State.memRead_never (s := s.stacked 6 (servicePushed s ra.toNat)) hx (by rw [hva]; exact hv)
  have henter := State.enterProcedure_never (s := s.stacked 6 (servicePushed s ra.toNat)) hx hd
  rw [hva] at hdesc
  unfold servicePushed at hdesc henter ⊢
  simp only [State.service, hmod, hret, State.stacked_intbase, State.stacked_mem, hdesc, henter, bind, Except.bind]

/-- The descriptor an exception's vector names once its frame is pushed (R519). -/
def vectorDescriptor (s : State) (image : Word) (v ra : Nat) : Nat :=
  (framePushed s image ra).readLE (s.intbase.toNat + 4 * v) 4

/-- An exception that is ready is taken: PSR is the one given, which selects SP0, and the procedure of the vector is
entered over the frame (R511, R519). -/
theorem State.takeException_ready {s : State} {image psr : Word} {v : Nat} {ra : AddrReg}
    (hs : Machine.flag psr .s = false) (h : ExceptionReady s image v ra.toNat) :
    s.takeException image psr v ra = .ok ((({ s with psr := psr } : State).stacked 8
      (framePushed s image ra.toNat)).inProcedure (vectorDescriptor s image v ra.toNat)) := by
  obtain ⟨hx, hn, hc, hv, hd⟩ := h
  let s1 := ({ s with psr := psr } : State).stacked 2 (s.mem.writeLE (s.sp0.toNat - 2) 2 image.toNat)
  have hsp : s1.sp0.toNat = s.sp0.toNat - 2 := State.stacked_sp0 ..
  have himage : ({ s with psr := psr } : State).push 2 image.toNat = .ok s1 :=
    State.push_sp0 _ hx hs (Nat.le_trans (by decide) hn)
      (checkAccess_part hc (by simp only; omega) (by simp only; omega))
  have hframe : servicePushed s1 ra.toNat = framePushed s image ra.toNat := by
    rw [servicePushed, framePushed, hsp, Nat.sub_sub, Nat.sub_sub]
    rfl
  have hservice := State.service_never (s := s1) (v := v) (ra := ra) hx hs (by omega)
    (checkAccess_part hc (by omega) (by omega)) hv (by rw [hframe]; exact hd)
  rw [hframe, State.stacked_stacked] at hservice
  simp only [State.takeException, himage, bind, Except.bind, hservice, entry]
  rfl

/-! ## What the entry leaves -/

/-- The three values of a frame read back, and the bytes around it are as before (R519). -/
theorem framePushed_reads {s : State} {image : Word} {ra : Nat} (hw : s.mem.wf = true) (hn : 8 ≤ s.sp0.toNat)
    (hra : ra < 2 ^ 32) :
    (framePushed s image ra).readLE (s.sp0.toNat - 2) 2 = image.toNat ∧
      (framePushed s image ra).readLE (s.sp0.toNat - 4) 2 = s.mod.toNat ∧
      (framePushed s image ra).readLE (s.sp0.toNat - 8) 4 = ra ∧
      ∀ x, x < s.sp0.toNat - 8 ∨ s.sp0.toNat - 8 + 8 ≤ x → (framePushed s image ra).read x = s.mem.read x := by
  have hsp := s.sp0.isLt
  have hi := image.isLt
  have hmod := s.mod.isLt
  have inside {a n : Nat} (h : a + n ≤ s.sp0.toNat) : a + n ≤ Config.memSize := by
    simp only [Config.memSize]; omega
  have m1 := inside (a := s.sp0.toNat - 2) (n := 2) (by omega)
  have m2 := inside (a := s.sp0.toNat - 4) (n := 2) (by omega)
  have m3 := inside (a := s.sp0.toNat - 8) (n := 4) (by omega)
  have w1 := Memory.wf_writeLE (v := image.toNat) hw m1
  have w2 := Memory.wf_writeLE (v := s.mod.toNat) w1 m2
  unfold framePushed
  refine ⟨?_, ?_, ?_, fun x hx => ?_⟩
  · rw [Memory.readLE_writeLE_outside w2 m3 (by omega), Memory.readLE_writeLE_outside w1 m2 (by omega),
      Memory.readLE_writeLE hw m1]
    omega
  · rw [Memory.readLE_writeLE_outside w2 m3 (by omega), Memory.readLE_writeLE w1 m2]
    omega
  · rw [Memory.readLE_writeLE w2 m3]
    omega
  · rw [Memory.read_writeLE_outside w2 m3 (by omega), Memory.read_writeLE_outside w1 m2 (by omega),
      Memory.read_writeLE_outside hw m1 (by omega)]

/-- The state an exception enters its procedure with is the one R519 describes. -/
theorem exceptionTaken_inProcedure {s : State} {image psr : Word} {v ra : Nat} (hw : s.mem.wf = true)
    (hn : 8 ≤ s.sp0.toNat) (hra : ra < 2 ^ 32) :
    ExceptionTaken s image v ra ((({ s with psr := psr } : State).stacked 8 (framePushed s image ra)).inProcedure
      (vectorDescriptor s image v ra)) := by
  obtain ⟨himage, hmod, hret, hout⟩ := framePushed_reads (image := image) hw hn hra
  have hsp0 : (({ s with psr := psr } : State).stacked 8 (framePushed s image ra)).sp0.toNat + 8 = s.sp0.toNat := by
    rw [State.stacked_sp0, Nat.sub_add_cancel hn]
  exact ⟨hsp0, rfl, himage, hmod, hret, hout,
    ⟨vectorDescriptor s image v ra, rfl, BitVec.toNat_ofNat .., BitVec.toNat_ofNat .., BitVec.toNat_ofNat ..⟩,
    fun _ _ => rfl, fun _ _ => rfl, rfl, rfl, rfl, rfl, rfl, rfl, rfl⟩

/-! ## Traps -/

/-- Clearing flags clears those and keeps the others (R523). -/
theorem cleared_clearFlags (ks : List Flag) (w : Word) : Cleared ks w (clearFlags w ks) := by
  induction ks generalizing w with
  | nil => exact fun _ => rfl
  | cons k ks ih =>
    intro j
    rw [clearFlags, ih (putFlag w k false) j]
    by_cases hj : j = k
    · subst hj; simp
    · simp [hj]

/-- A trap that is ready is taken with the PSR and the return address the instruction started with (R521). -/
theorem State.trap_ready {s : State} {k : TrapKind} (hw : s.mem.wf = true)
    (h : ExceptionReady s s.psr (trapVector k) s.pc.toNat) :
    ∃ t, s.trap k = .ok t ∧ ExceptionTaken s s.psr (trapVector k) s.pc.toNat t ∧
      Cleared [.s, .u, .p, .t] s.psr t.psr ∧ t.waiting = s.waiting ∧ t.nmiPending = s.nmiPending := by
  have hcleared := cleared_clearFlags [.s, .u, .p, .t] s.psr
  have hra : s.pc.toNat < 2 ^ 32 := by have := s.pc.isLt; omega
  have htake := State.takeException_ready (psr := clearFlags s.psr [.s, .u, .p, .t]) (by simpa using hcleared .s) h
  obtain ⟨-, hroom, -, -, -⟩ := h
  exact ⟨_, htake, exceptionTaken_inProcedure hw hroom hra, hcleared, rfl, rfl⟩

/-- A trap taken inside an instruction is its outcome (R521). -/
theorem State.run_trap (s0 s : State) (k : TrapKind) : s0.run (s.trap k) = finish (s.trap k) :=
  State.run_takeException ..

end Sys2Proof.Machine
end

section
/-! PROOFS. The explicit traps BPT, FLAG and SVC (47_processor_control.md R420 to R422). -/
namespace Sys2Proof.Machine

/-- BPT is Trap (BPT) (R420). -/
theorem exec_bpt (s : State) : exec .bpt s = finish (s.trap .bpt) := State.run_trap s s .bpt

/-- SVC is Trap (SVC) (R422). -/
theorem exec_svc (s : State) : exec .svc s = finish (s.trap .svc) := State.run_trap s s .svc

/-- What FLAG does turns on F (R421). -/
theorem exec_flag (s : State) :
    exec .flag s = s.run (if s.flag .f then s.trap .flg else .ok (s.advance .flag)) := rfl

/-- FLAG is Trap (FLG) where F is set (R421). -/
theorem exec_flag_set {s : State} (hf : s.flag .f = true) : exec .flag s = finish (s.trap .flg) := by
  rw [exec_flag, if_pos hf, State.run_trap]

/-- FLAG passes control on where F is not set (R421). -/
theorem exec_flag_clear {s : State} (hf : s.flag .f = false) : exec .flag s = .next (s.advance .flag) := by
  rw [exec_flag, if_neg (by simp [hf]), State.run_next]
  exact Or.inl rfl

/-- Passing control on changes PC alone (R131). -/
theorem State.advance_onlyControl (s : State) (i : Instr) : OnlyControl [] s (s.advance i) := by
  simp [OnlyControl, SameData, SameRegs, SameFpRegs, SameMemory, SameFlags, SameStack, SameControl, SameBases,
    SameSystem]

/-- An instruction that is a trap completes wherever the trap is ready. -/
theorem exec_trap_ready {s : State} {i : Instr} {k : TrapKind} (he : exec i s = finish (s.trap k))
    (hw : s.mem.wf = true) (h : ExceptionReady s s.psr (trapVector k) s.pc.toNat) :
    ∃ t, exec i s = .next t ∧ ExceptionTaken s s.psr (trapVector k) s.pc.toNat t ∧
      Cleared [.s, .u, .p, .t] s.psr t.psr := by
  obtain ⟨t, ht, htaken, hcleared, -, -⟩ := State.trap_ready hw h
  exact ⟨t, he.trans (finish_next.2 (Or.inl ht)), htaken, hcleared⟩

/-- The one byte of each explicit trap decodes to it, whatever follows (R420 to R422). -/
theorem explicitTrap_byte {ins : Instr} {b : Byte} (rest : List Byte)
    (h : (ins, b) ∈ [(Instr.bpt, (0xF2 : Byte)), (.flag, 0xD2), (.svc, 0xE2)]) :
    encode ins = [b] ∧ decode (b :: rest) = .ok (ins, rest) := by
  simp only [List.mem_cons, Prod.mk.injEq, List.not_mem_nil, or_false] at h
  obtain ⟨rfl, rfl⟩ | ⟨rfl, rfl⟩ | ⟨rfl, rfl⟩ := h <;> exact ⟨rfl, rfl⟩

/-- Settles O46: BPT, SVC and FLAG with F set are their traps, which complete as every trap does; FLAG with F clear is
`advance`. -/
theorem explicitTraps : Obligations.ExplicitTraps :=
  ⟨fun _ _ rest h => explicitTrap_byte rest h,
    fun s => ⟨exec_bpt s, exec_svc s, exec_flag_set⟩,
    fun s hw => ⟨exec_trap_ready (k := .bpt) (exec_bpt s) hw, exec_trap_ready (k := .svc) (exec_svc s) hw,
      fun hf => exec_trap_ready (k := .flg) (exec_flag_set hf) hw,
      fun hf => ⟨_, exec_flag_clear hf, s.advance_onlyControl .flag, s.advance_next .flag⟩⟩⟩

end Sys2Proof.Machine
end

section
/-! PROOFS. Decoding an encoded instruction gives it back, format by format (30_encoding.md R130 to R184). -/
namespace Sys2Proof

/-! ## Operands -/

/-- Two general operands and nothing after them decode. -/
theorem two_encode {a b : Gen} {ia ib : Option Nat} (mk : Gen → Gen → Instr) (ha : a.fit ia) (hb : b.fit ib)
    (r : List Byte) :
    two (genCode a) (genCode b) ia ib mk (tail2 (immBytes ia) (immBytes ib) a b ++ r) = .ok (mk a b, r) :=
  gen2_encode ha hb r _

/-- One general operand and nothing after it decodes. -/
theorem one_encode {g : Gen} {imm : Option Nat} (mk : Gen → Instr) (h : g.fit imm) (r : List Byte) :
    one (genCode g) imm mk (tail1 (immBytes imm) g ++ r) = .ok (mk g, r) := gen1_encode h r _

/-- A field that is as it must be. -/
theorem fixed_true {c : Bool} (h : c = true) (k : Decoded) : fixed c k = k := if_pos h

/-- A length field decodes from its code (R134). -/
@[simp] theorem withLen_lenCode (i : IntLen) (k : IntLen → Decoded) : withLen (lenCode i) k = k i := by
  cases i <;> rfl

@[simp] theorem lenOfCode_lenCode (i : IntLen) : lenOfCode (lenCode i) = i := by cases i <;> rfl
@[simp] theorem fpOfCode_fpCode (f : FpLen) : fpOfCode (fpCode f) = f := by cases f <;> rfl
@[simp] theorem procRegOfCode_procRegCode (p : ProcReg) : procRegOfCode (procRegCode p) = some p := by
  cases p <;> rfl
@[simp] theorem mmuRegOfCode_mmuRegCode (m : MmuReg) : mmuRegOfCode (mmuRegCode m) = some m := by cases m <;> rfl

theorem procRegCode_lt (p : ProcReg) : procRegCode p < 16 := by cases p <;> decide
theorem mmuRegCode_lt (m : MmuReg) : mmuRegCode m < 16 := by cases m <;> decide
theorem lenCode_lt (i : IntLen) : lenCode i < 4 := by cases i <;> decide
theorem fpCode_lt (f : FpLen) : fpCode f < 2 := by cases f <;> decide

/-! ## One byte -/

/-- The decoder of a one-byte basic instruction of format F-1 (R170). -/
theorem decode_encodeF1 {op : Nat} (ho : op < 16) (rest : List Byte) :
    decode (encodeF1 op ++ rest) = decodeF1 op rest := by
  have h0 : (byteOf (16 * op + 2)).toNat = 16 * op + 2 := by rw [byteOf_toNat]; omega
  simp only [encodeF1, List.cons_append, List.nil_append, decode, h0]
  rw [if_pos (by omega), show (16 * op + 2) / 4 % 4 = 0 by omega, show (16 * op + 2) / 16 = op by omega]
  rfl

/-- An F-1 instruction with a displacement decodes. -/
theorem decode_f1_disp {op : Nat} {mk : Disp → Instr} {d : Disp} (ho : op < 16)
    (hk : ∀ r, decodeF1 op r = tailDisp mk r) (hd : d.wf = true) (rest : List Byte) :
    decode (encodeF1 op ++ encodeDisp d ++ rest) = .ok (mk d, rest) := by
  rw [List.append_assoc, decode_encodeF1 ho, hk, tailDisp_encode _ hd]

/-- An F-Bcond instruction decodes (R171). -/
theorem decode_bcond {cond : Nat} {mk : Disp → Instr} {d : Disp} (ho : cond < 16)
    (hk : ∀ r, decodeBcond cond r = tailDisp mk r) (hd : d.wf = true) (rest : List Byte) :
    decode (encodeBcond cond d ++ rest) = .ok (mk d, rest) := by
  have h0 : (byteOf (16 * cond + 10)).toNat = 16 * cond + 10 := by rw [byteOf_toNat]; omega
  simp only [encodeBcond, List.cons_append, decode, h0]
  rw [if_pos (by omega), show (16 * cond + 10) / 4 % 4 = 2 by omega, show (16 * cond + 10) / 16 = cond by omega]
  simp only [hk, tailDisp_encode _ hd]

/-! ## Two bytes -/

/-- An F-GQ or F-G instruction with one operand decodes (R172, R173). -/
theorem decode_gq {op q : Nat} {i : IntLen} {imm : Option Nat} {mk : Gen → Instr} {g : Gen} (ho : op < 8)
    (hq : q < 16) (hk : ∀ r, decodeGQ op (lenCode i) q (genCode g) r = one (genCode g) imm mk r) (hg : g.fit imm)
    (rest : List Byte) : decode (encodeGQ op q i (immBytes imm) g ++ rest) = .ok (mk g, rest) := by
  rw [decode_encodeGQ op q i _ g rest ho hq, hk, one_encode mk hg]

/-- An F-GG instruction decodes (R175). -/
theorem decode_gg {op : Nat} {i : IntLen} {ia ib : Option Nat} {mk : Gen → Gen → Instr} {a b : Gen} (ho : op < 16)
    (h3 : op % 4 ≠ 3)
    (hk : ∀ r, decodeGG op (lenCode i) (genCode a) (genCode b) r = two (genCode a) (genCode b) ia ib mk r)
    (ha : a.fit ia) (hb : b.fit ib) (rest : List Byte) :
    decode (encodeGG op i (immBytes ia) (immBytes ib) a b ++ rest) = .ok (mk a b, rest) := by
  rw [decode_encodeGG op i _ _ a b rest ho h3, hk, two_encode mk ha hb]

/-! ## Three bytes -/

/-- The options of a String instruction decode from their code (R174). -/
theorem withStrOpt_strOptCode (t : Nat) (ht : t < 2) (o : StrOpt) (k : StrOpt → Decoded) :
    withStrOpt (strOptCode t o) k = k o ∧ strOptCode t o < 16 ∧ strOptCode t o % 2 = t := by
  obtain ⟨back, cond⟩ := o
  interval_cases t <;> cases back <;> cases cond <;> exact ⟨rfl, by decide, by decide⟩

/-- The plain form of a String instruction decodes (R174). -/
theorem decode_string {op : Nat} {plain : IntLen → StrOpt → Instr} {tr : StrOpt → Instr} (ho : op < 16)
    (hk : ∀ w r, w / 1024 % 16 = op → w / 16384 % 2 = 0 → w / 524288 % 32 = 0 →
      decode0E w r = decodeString (w / 256 % 4) (w / 32768 % 16) plain tr r) (o : StrOpt) (rest : List Byte) :
    (∀ i, decode (encode0E op (lenCode i) (strOptCode 0 o) ++ rest) = .ok (plain i o, rest)) ∧
      decode (encode0E op 0 (strOptCode 1 o) ++ rest) = .ok (tr o, rest) := by
  constructor
  · intro i
    have hs := fun k => withStrOpt_strOptCode 0 (by decide) o k
    obtain ⟨w, hw, e1, e2, e3, e4, e5⟩ := decode_encode0E op (lenCode i) (strOptCode 0 o) rest ho (lenCode_lt i)
      (hs fun _ => .error .truncated).2.1
    rw [hw, hk w rest e2 e4 e5, e1, e3, decodeString, withLen_lenCode, (hs _).1, if_pos (hs fun _ => .error .truncated).2.2]
  · have hs := fun k => withStrOpt_strOptCode 1 (by decide) o k
    obtain ⟨w, hw, e1, e2, e3, e4, e5⟩ := decode_encode0E op 0 (strOptCode 1 o) rest ho (by decide)
      (hs fun _ => .error .truncated).2.1
    have hodd := (hs fun _ => .error .truncated).2.2
    rw [hw, hk w rest e2 e4 e5, e1, e3, decodeString]
    rw [show 0 = lenCode .b from rfl, withLen_lenCode, (hs _).1, hodd]
    rfl

/-- An F-4E instruction decodes (R176). -/
theorem decode_4E {op : Nat} {i : IntLen} {ia ib : Option Nat} {mk : Gen → Gen → Instr} {a b : Gen} (ho : op < 16)
    (hk : ∀ w r, w / 1024 % 16 = op → w / 256 % 4 = lenCode i → decode4E w r =
      two (w / 524288 % 32) (w / 16384 % 32) ia ib mk r) (ha : a.fit ia) (hb : b.fit ib) (rest : List Byte) :
    decode (encode4E 0x4E op (lenCode i) (immBytes ia) (immBytes ib) a b ++ rest) = .ok (mk a b, rest) := by
  obtain ⟨w, hw, e1, e2, e3, e4⟩ := decode_encode4E op (lenCode i) (immBytes ia) (immBytes ib) a b rest ho (lenCode_lt i)
  rw [hw, hk w _ e2 e1, e3, e4, two_encode mk ha hb]

/-- An F-CE instruction decodes where its decoder reads two operands and goes on with `k` (R178). -/
theorem decode_CE {op ic : Nat} {ia ib : Option Nat} {k : Gen → Gen → List Byte → Decoded} {a b : Gen} (ho : op < 16)
    (hi : ic < 4)
    (hk : ∀ w r, w / 1024 % 16 = op → w / 256 % 4 = ic → decodeCE w r =
      gen2 (w / 524288 % 32) (w / 16384 % 32) ia ib r k) (ha : a.fit ia) (hb : b.fit ib) (rest : List Byte) :
    decode (encode4E 0xCE op ic (immBytes ia) (immBytes ib) a b ++ rest) = k a b rest := by
  obtain ⟨w, hw, e1, e2, e3, e4⟩ := decode_encodeCE op ic (immBytes ia) (immBytes ib) a b rest ho hi
  rw [hw, hk w _ e2 e1, e3, e4, gen2_encode ha hb]

/-- An F-CE instruction with nothing after its two operands decodes. -/
theorem decode_CE_two {op ic : Nat} {ia ib : Option Nat} {mk : Gen → Gen → Instr} {a b : Gen} (ho : op < 16)
    (hi : ic < 4)
    (hk : ∀ w r, w / 1024 % 16 = op → w / 256 % 4 = ic → decodeCE w r =
      two (w / 524288 % 32) (w / 16384 % 32) ia ib mk r) (ha : a.fit ia) (hb : b.fit ib) (rest : List Byte) :
    decode (encode4E 0xCE op ic (immBytes ia) (immBytes ib) a b ++ rest) = .ok (mk a b, rest) :=
  decode_CE ho hi (k := fun p q r => .ok (mk p q, r)) hk ha hb rest

/-- An F-CE instruction with a displacement after its two operands decodes. -/
theorem decode_CE_disp {op ic : Nat} {mk : Gen → Gen → Disp → Instr} {a b : Gen} {d : Disp} (ho : op < 16)
    (hi : ic < 4)
    (hk : ∀ w r, w / 1024 % 16 = op → w / 256 % 4 = ic → decodeCE w r =
      gen2 (w / 524288 % 32) (w / 16384 % 32) none none r (fun p q r' => tailDisp (mk p q) r'))
    (ha : a.wfLoc = true) (hb : b.wfLoc = true) (hd : d.wf = true) (rest : List Byte) :
    decode (encode4E 0xCE op ic 0 0 a b ++ encodeDisp d ++ rest) = .ok (mk a b d, rest) := by
  rw [List.append_assoc]
  exact (decode_CE (ia := none) (ib := none) ho hi hk ha hb _).trans (tailDisp_encode _ hd rest)

/-- The byte of INSSi and EXTSi that packs a field's offset and its length less one decodes (R345, R347). -/
theorem decode_fieldByte (o : BitVec 3) (l : BitVec 5) (mk : BitVec 3 → BitVec 5 → Instr) (rest : List Byte) :
    tailByte (fun m => mk (BitVec.ofNat 3 (m.toNat / 32)) (BitVec.ofNat 5 m.toNat))
      ([byteOf (32 * o.toNat + l.toNat)] ++ rest) = .ok (mk o l, rest) := by
  have h1 := o.isLt
  have h2 := l.isLt
  have ho : BitVec.ofNat 3 ((byteOf (32 * o.toNat + l.toNat)).toNat / 32) = o := by rw [byteOf_toNat]; bv_omega
  have hl : BitVec.ofNat 5 (byteOf (32 * o.toNat + l.toNat)).toNat = l := by rw [byteOf_toNat]; bv_omega
  simp only [tailByte, readByte, List.cons_append, List.nil_append, ho, hl]

/-- An F-CE instruction with the byte of a field after its two operands decodes. -/
theorem decode_CE_field {op ic : Nat} {ia : Option Nat} {mk : Gen → Gen → BitVec 3 → BitVec 5 → Instr} {a b : Gen}
    {o : BitVec 3} {l : BitVec 5} (ho : op < 16) (hi : ic < 4)
    (hk : ∀ w r, w / 1024 % 16 = op → w / 256 % 4 = ic → decodeCE w r =
      gen2 (w / 524288 % 32) (w / 16384 % 32) ia none r (fun p q r' =>
        tailByte (fun m => mk p q (BitVec.ofNat 3 (m.toNat / 32)) (BitVec.ofNat 5 m.toNat)) r'))
    (ha : a.fit ia) (hb : b.wfLoc = true) (rest : List Byte) :
    decode (encode4E 0xCE op ic (immBytes ia) 0 a b ++ [byteOf (32 * o.toNat + l.toNat)] ++ rest)
      = .ok (mk a b o l, rest) := by
  rw [List.append_assoc]
  exact (decode_CE (ib := none) ho hi hk ha hb _).trans (decode_fieldByte o l _ rest)

/-- An instruction of the 2E group decodes where its decoder reads two operands and goes on with `k` (R177). -/
theorem decode_2E {op2 fb b10 reg ic : Nat} {ia ib : Option Nat} {k : Gen → Gen → List Byte → Decoded} {a b : Gen}
    (hf : fb = 0x2E + 64 * op2) (h2 : op2 < 4) (ho : b10 < 2) (hr : reg < 8) (hi : ic < 4)
    (hk : ∀ w r, w / 1024 % 2 = b10 → w / 2048 % 8 = reg → w / 256 % 4 = ic → decode2E op2 w r =
      gen2 (w / 524288 % 32) (w / 16384 % 32) ia ib r k) (ha : a.fit ia) (hb : b.fit ib) (rest : List Byte) :
    decode (encode2E fb b10 reg ic (immBytes ia) (immBytes ib) a b ++ rest) = k a b rest := by
  obtain ⟨w, hw, e1, e2, e3, e4, e5⟩ :=
    decode_encode2E fb op2 b10 reg ic (immBytes ia) (immBytes ib) a b rest hf h2 ho hr hi
  rw [hw, hk w _ e2 e3 e1, e4, e5, gen2_encode ha hb]

/-- An F-1E instruction decodes (R179). -/
theorem decode_1E {op short : Nat} {imm : Option Nat} {mk : Gen → Instr} {g : Gen} (ho : op < 16) (hs : short < 16)
    (hk : ∀ w r, w / 1024 % 16 = op → w / 32768 % 16 = short → w / 16384 % 2 = 0 → w / 256 % 4 = 3 →
      decode1E w r = one (w / 524288 % 32) imm mk r) (hg : g.fit imm) (rest : List Byte) :
    decode (encode1E op short g (immBytes imm) ++ rest) = .ok (mk g, rest) := by
  obtain ⟨w, hw, e1, e2, e3, e4, e5⟩ := decode_encode1E op short (immBytes imm) g rest ho hs
  rw [hw, hk w _ e2 e3 e4 e1, e5, one_encode mk hg]

/-- An F-3E instruction of two operands decodes (R179). -/
theorem decode_3E {op fc ic : Nat} {ia ib : Option Nat} {mk : Gen → Gen → Instr} {a b : Gen} (ho : op < 8)
    (hf : fc < 2) (hi : ic < 4)
    (hk : ∀ w r, w / 2048 % 8 = op → w / 1024 % 2 = fc → w / 256 % 4 = ic → decode3E w r =
      two (w / 524288 % 32) (w / 16384 % 32) ia ib mk r) (ha : a.fit ia) (hb : b.fit ib) (rest : List Byte) :
    decode (encode3E op fc ic (immBytes ia) (immBytes ib) a b ++ rest) = .ok (mk a b, rest) := by
  obtain ⟨w, hw, e1, e2, e3, e4, e5⟩ := decode_encode3E op fc ic (immBytes ia) (immBytes ib) a b rest ho hf hi
  rw [hw, hk w _ e3 e2 e1, e4, e5, two_encode mk ha hb]

/-- Register mode 0, the fixed field of LFSR and SFSR, adds no bytes. -/
theorem tail2_reg0 (n : Nat) (g : Gen) :
    tail2 n 0 g (.mode (.reg 0)) = tail1 n g ∧ tail2 0 n (.mode (.reg 0)) g = tail1 n g := by
  simp [tail2, tail1, genIndex, genExt, encodeMode]

/-- LFSR decodes (R179). -/
theorem decode_lfsr {a : Gen} (ha : a.fit (some 4)) (rest : List Byte) :
    decode (encode (.lfsr a) ++ rest) = .ok (.lfsr a, rest) := by
  obtain ⟨w, hw, e1, e2, e3, e4, e5⟩ :=
    decode_encode3E 1 1 3 4 0 a (.mode (.reg 0)) rest (by decide) (by decide) (by decide)
  have hk : decode3E w (tail2 4 0 a (.mode (.reg 0)) ++ rest)
      = one (genCode a) (some 4) .lfsr (tail1 4 a ++ rest) := by
    simp [decode3E, e1, e2, e3, e4, e5, fixed, genCode, modeCode, (tail2_reg0 4 a).1]
  rw [encode, hw, hk]
  exact one_encode (imm := some 4) Instr.lfsr ha rest

/-- SFSR decodes (R179). -/
theorem decode_sfsr {b : Gen} (hb : b.fit none) (rest : List Byte) :
    decode (encode (.sfsr b) ++ rest) = .ok (.sfsr b, rest) := by
  obtain ⟨w, hw, e1, e2, e3, e4, e5⟩ :=
    decode_encode3E 6 1 3 0 0 (.mode (.reg 0)) b rest (by decide) (by decide) (by decide)
  have hk : decode3E w (tail2 0 0 (.mode (.reg 0)) b ++ rest) = one (genCode b) none .sfsr (tail1 0 b ++ rest) := by
    simp [decode3E, e1, e2, e3, e4, e5, fixed, genCode, modeCode, (tail2_reg0 0 b).2]
  rw [encode, hw, hk]
  exact one_encode (imm := none) Instr.sfsr hb rest

/-- An F-BE instruction decodes; `nb` is the length of an immediate `b` may be (R179). -/
theorem decode_BE {op : Nat} {f : FpLen} {ib : Option Nat} {mk : Gen → Gen → Instr} {a b : Gen} (ho : op < 16)
    (hk : ∀ w r, w / 1024 % 16 = op → w / 512 % 2 = 0 → w / 256 % 2 = fpCode f → decodeBE w r =
      two (w / 524288 % 32) (w / 16384 % 32) (some f.bytes) ib mk r) (ha : a.fit (some f.bytes)) (hb : b.fit ib)
    (hn : ib = none ∨ ib = some f.bytes) (rest : List Byte) :
    decode (encodeBE op f a b ++ rest) = .ok (mk a b, rest) := by
  obtain ⟨w, hw, e1, e2, e3, e4, e5⟩ := decode_encodeBE op f a b rest ho
  have ht : tail2 f.bytes f.bytes a b = tail2 (immBytes (some f.bytes)) (immBytes ib) a b := by
    rcases hn with rfl | rfl
    · exact tail2_of_wfLoc hb
    · rfl
  rw [hw, hk w _ e3 e2 e1, e4, e5, ht, two_encode mk ha hb]

/-- The two unassigned F-BE codes decode (R261). -/
theorem decode_fpuIllegal (hi : BitVec 10) (lo : BitVec 2) (rest : List Byte) :
    decode (encode (.fpuIllegal0011 hi lo) ++ rest) = .ok (.fpuIllegal0011 hi lo, rest) ∧
      decode (encode (.fpuIllegal1001 hi lo) ++ rest) = .ok (.fpuIllegal1001 hi lo, rest) := by
  have h1 := hi.isLt
  have h2 := lo.isLt
  have key (op : Nat) (ho : op < 16) :
      ∃ w, decode (basic3 (0xBE + 256 * lo.toNat + 1024 * op + 16384 * hi.toNat) ++ rest) = decodeBE w rest ∧
        w / 1024 % 16 = op ∧ BitVec.ofNat 10 (w / 16384) = hi ∧ BitVec.ofNat 2 (w / 256) = lo := by
    refine ⟨0xBE + 256 * lo.toNat + 1024 * op + 16384 * hi.toNat, ?_, by omega, by bv_omega, by bv_omega⟩
    have e : (0xBE + 256 * lo.toNat + 1024 * op + 16384 * hi.toNat) % 256 / 16 = 11 := by omega
    rw [decode_basic3 (by omega) (by omega) (by rw [e]; rfl), e]
    rfl
  constructor
  · obtain ⟨w, hw, e1, e2, e3⟩ := key 3 (by decide)
    rw [encode, hw]
    simp only [decodeBE, e1, e2, e3]
  · obtain ⟨w, hw, e1, e2, e3⟩ := key 9 (by decide)
    rw [encode, hw]
    simp only [decodeBE, e1, e2, e3]

end Sys2Proof
end

section
/-! PROOFS. Every well-formed instruction decodes from its own bytes. -/
namespace Sys2Proof

/-- The instruction decodes from its own bytes, whatever follows them. -/
def Decodes (i : Instr) : Prop := ∀ rest : List Byte, decode (encode i ++ rest) = .ok (i, rest)

/-- The two forms of each String instruction decode (R174). -/
theorem decodes_string (o : StrOpt) :
    (∀ i, Decodes (.movsi i o) ∧ Decodes (.cmpsi i o) ∧ Decodes (.skpsi i o)) ∧
      Decodes (.movst o) ∧ Decodes (.cmpst o) ∧ Decodes (.skpst o) := by
  have h0 := decode_string (op := 0) (plain := .movsi) (tr := .movst) (by decide)
    (fun w r e1 e2 e3 => by simp [decode0E, e1, e2, e3, fixed]) o
  have h1 := decode_string (op := 1) (plain := .cmpsi) (tr := .cmpst) (by decide)
    (fun w r e1 e2 e3 => by simp [decode0E, e1, e2, e3, fixed]) o
  have h3 := decode_string (op := 3) (plain := .skpsi) (tr := .skpst) (by decide)
    (fun w r e1 e2 e3 => by simp [decode0E, e1, e2, e3, fixed]) o
  exact ⟨fun i => ⟨fun rest => (h0 rest).1 i, fun rest => (h1 rest).1 i, fun rest => (h3 rest).1 i⟩,
    fun rest => (h0 rest).2, fun rest => (h1 rest).2, fun rest => (h3 rest).2⟩

/-- SETCFG decodes (R174). -/
theorem decodes_setcfg (c : BitVec 4) : Decodes (.setcfg c) := by
  intro rest
  obtain ⟨w, hw, e1, e2, e3, e4, e5⟩ := decode_encode0E 2 3 c.toNat rest (by decide) (by decide) c.isLt
  rw [encode, hw]
  simp [decode0E, e1, e2, e3, e4, e5, fixed]

/-- The words of ADDR and of LXPD decode to the one that well-formedness gives them (R441; log 20). -/
theorem mkAddr_of_notLinkEntry {a : Gen} (h : a.isLinkEntry = false) (b : Gen) : mkAddr a b = .addr a b := by
  unfold mkAddr
  split
  · rw [if_neg (by simpa [Gen.isLinkEntry] using h)]
  · rfl

/-- An instruction of one byte, or of one byte and another byte or a displacement, decodes (R170, R171, R184). -/
theorem decodes_trailing {op : Nat} {l : Byte} {mk : Byte → Instr} (ho : op < 16)
    (hk : ∀ r, decodeF1 op r = tailByte mk r) (rest : List Byte) :
    decode (encodeF1 op ++ [l] ++ rest) = .ok (mk l, rest) := by
  rw [List.append_assoc, decode_encodeF1 ho, hk]
  rfl

/-- Every well-formed instruction decodes from its own bytes, whatever follows them (R183). -/
theorem decodes_of_wf (i : Instr) (h : i.wf = true) : Decodes i := by
  intro rest
  cases i with
  | bsr d | ret d | cxp d | rxp d | rett d => exact decode_f1_disp (by decide) (fun _ => rfl) h rest
  | reti | nop | wait | dia | flag | svc | bpt => exact decode_encodeF1 (by decide) rest
  | save l | restore l | exit l => exact decodes_trailing (by decide) (fun _ => rfl) rest
  | enter l d =>
    rw [encode, List.append_assoc, decode_encodeF1 (by decide)]
    exact tailDisp_encode (.enter l) h rest
  | beq d | bne d | bcs d | bcc d | bhi d | bls d | bgt d | ble d | bfs d | bfc d | blo d | bhs d | blt d | bge d
  | br d => exact decode_bcond (by decide) (fun _ => rfl) h rest
  | addqi il q g | movqi il q g =>
    exact decode_gq (imm := none) (by decide) q.isLt (fun _ => by simp [decodeGQ]) h rest
  | cmpqi il q g => exact decode_gq (imm := some il.bytes) (by decide) q.isLt (fun _ => by simp [decodeGQ]) h rest
  | spri il p g => exact decode_gq (imm := none) (by decide) (procRegCode_lt p) (fun _ => by simp [decodeGQ]) h rest
  | lpri il p g =>
    exact decode_gq (imm := some il.bytes) (by decide) (procRegCode_lt p) (fun _ => by simp [decodeGQ]) h rest
  | acbi il q g d =>
    obtain ⟨hg, hd⟩ := Bool.and_eq_true_iff.1 h
    rw [encode, List.append_assoc, decode_encodeGQ 4 _ il 0 g _ (by decide) q.isLt]
    simp only [decodeGQ, lenOfCode_lenCode, BitVec.ofNat_toNat, BitVec.setWidth_eq]
    exact (gen1_encode (imm := none) hg _ _).trans (tailDisp_encode _ hd rest)
  | seqi il g | snei il g | scsi il g | scci il g | shii il g | slsi il g | sgti il g | slei il g | sfsi il g
  | sfci il g | sloi il g | shsi il g | slti il g | sgei il g =>
    exact decode_gq (imm := none) (by decide) (by decide) (fun _ => by simp [decodeGQ, decodeScond]) h rest
  | cxpd g | jump g | jsr g => exact decode_gq (imm := none) (by decide) (by decide) (fun _ => rfl) h rest
  | bicpsri il g | bispsri il g =>
    obtain ⟨hs, hg⟩ := Bool.and_eq_true_iff.1 h
    exact decode_gq (imm := some il.bytes) (by decide) (by decide)
      (fun _ => by cases il <;> first | rfl | cases hs) hg rest
  | adjspi il g | casei il g =>
    exact decode_gq (imm := some il.bytes) (by decide) (by decide) (fun _ => by simp [decodeGQ, decodeG]) h rest
  | addi il a b | bici il a b | addci il a b | movi il a b | ori il a b | subi il a b | andi il a b | subci il a b
  | tbiti il a b | xori il a b =>
    obtain ⟨ha, hb⟩ := Bool.and_eq_true_iff.1 h
    exact decode_gg (ia := some il.bytes) (ib := none) (by decide) (by decide) (fun _ => by simp [decodeGG]) ha hb rest
  | cmpi il a b =>
    obtain ⟨ha, hb⟩ := Bool.and_eq_true_iff.1 h
    exact decode_gg (ia := some il.bytes) (ib := some il.bytes) (by decide) (by decide) (fun _ => by simp [decodeGG])
      ha hb rest
  | addr a b =>
    simp only [Instr.wf, Bool.and_eq_true, Bool.not_eq_true'] at h
    obtain ⟨⟨ha, hb⟩, hl⟩ := h
    exact (decode_gg (ia := none) (ib := none) (i := .d) (mk := mkAddr) (by decide) (by decide) (fun _ => rfl) ha hb
      rest).trans (by rw [mkAddr_of_notLinkEntry hl])
  | lxpd d1 d2 b =>
    simp only [Instr.wf, Bool.and_eq_true, decide_eq_true_eq] at h
    obtain ⟨⟨⟨h1, h2⟩, hb⟩, h0⟩ := h
    exact (decode_gg (ia := none) (ib := none) (i := .d) (a := .mode (.ext d1 d2)) (mk := mkAddr) (by decide)
      (by decide) (fun _ => rfl) (show (d1.wf && d2.wf) = true by simp [h1, h2]) hb rest).trans
      (by rw [mkAddr, if_pos h0])
  | movsi il o => exact ((decodes_string o).1 il).1 rest
  | cmpsi il o => exact ((decodes_string o).1 il).2.1 rest
  | skpsi il o => exact ((decodes_string o).1 il).2.2 rest
  | movst o => exact (decodes_string o).2.1 rest
  | cmpst o => exact (decodes_string o).2.2.1 rest
  | skpst o => exact (decodes_string o).2.2.2 rest
  | setcfg c => exact decodes_setcfg c rest
  | roti il a b | ashi il a b | lshi il a b =>
    obtain ⟨ha, hb⟩ := Bool.and_eq_true_iff.1 h
    exact decode_4E (ia := some 1) (ib := none) (by decide) (fun _ _ e1 e2 => by simp [decode4E, e1, e2]) ha hb rest
  | cbiti il a b | cbitii il a b | sbiti il a b | sbitii il a b | negi il a b | noti il a b | subpi il a b
  | absi il a b | comi il a b | ibiti il a b | addpi il a b =>
    obtain ⟨ha, hb⟩ := Bool.and_eq_true_iff.1 h
    exact decode_4E (ia := some il.bytes) (ib := none) (by decide) (fun _ _ e1 e2 => by simp [decode4E, e1, e2])
      ha hb rest
  | exti il x a b d =>
    simp only [Instr.wf, Bool.and_eq_true] at h
    obtain ⟨⟨ha, hb⟩, hd⟩ := h
    rw [encode, List.append_assoc]
    exact (decode_2E (op2 := 0) (ia := none) (ib := none) (k := fun p q r => tailDisp (.exti il x p q) r) rfl
      (by decide) (by decide) x.isLt (lenCode_lt il)
      (fun _ _ e1 e2 e3 => by simp [decode2E, e1, e2, e3]) ha hb _).trans (tailDisp_encode _ hd rest)
  | insi il x a b d =>
    simp only [Instr.wf, Bool.and_eq_true] at h
    obtain ⟨⟨ha, hb⟩, hd⟩ := h
    rw [encode, List.append_assoc]
    exact (decode_2E (op2 := 2) (ia := some il.bytes) (ib := none) (k := fun p q r => tailDisp (.insi il x p q) r) rfl
      (by decide) (by decide) x.isLt (lenCode_lt il)
      (fun _ _ e1 e2 e3 => by simp [decode2E, e1, e2, e3]) ha hb _).trans (tailDisp_encode _ hd rest)
  | indexi il x a b =>
    obtain ⟨ha, hb⟩ := Bool.and_eq_true_iff.1 h
    exact decode_2E (op2 := 0) (ia := some il.bytes) (ib := some il.bytes) (k := fun p q r => .ok (.indexi il x p q, r))
      rfl (by decide) (by decide) x.isLt (lenCode_lt il)
      (fun _ _ e1 e2 e3 => by simp [decode2E, e1, e2, e3, two]) ha hb rest
  | cvtp x a b =>
    obtain ⟨ha, hb⟩ := Bool.and_eq_true_iff.1 h
    exact decode_2E (op2 := 1) (ia := none) (ib := none) (k := fun p q r => .ok (.cvtp x p q, r)) rfl
      (by decide) (by decide) x.isLt (by decide)
      (fun _ _ e1 e2 e3 => by simp [decode2E, e1, e2, e3, two, fixed]) ha hb rest
  | ffsi il a b =>
    obtain ⟨ha, hb⟩ := Bool.and_eq_true_iff.1 h
    exact decode_2E (op2 := 1) (ia := some il.bytes) (ib := none) (k := fun p q r => .ok (.ffsi il p q, r)) rfl
      (by decide) (by decide) (by decide) (lenCode_lt il)
      (fun _ _ e1 e2 e3 => by simp [decode2E, e1, e2, e3, two, fixed]) ha hb rest
  | movsui il a b =>
    obtain ⟨ha, hb⟩ := Bool.and_eq_true_iff.1 h
    exact decode_2E (op2 := 2) (ia := none) (ib := none) (k := fun p q r => .ok (.movsui il p q, r)) rfl
      (by decide) (by decide) (by decide) (lenCode_lt il)
      (fun _ _ e1 e2 e3 => by simp [decode2E, e1, e2, e3, two]) ha hb rest
  | movusi il a b =>
    obtain ⟨ha, hb⟩ := Bool.and_eq_true_iff.1 h
    exact decode_2E (op2 := 2) (ia := none) (ib := none) (k := fun p q r => .ok (.movusi il p q, r)) rfl
      (by decide) (by decide) (by decide) (lenCode_lt il)
      (fun _ _ e1 e2 e3 => by simp [decode2E, e1, e2, e3, two]) ha hb rest
  | checki il x a b =>
    obtain ⟨ha, hb⟩ := Bool.and_eq_true_iff.1 h
    exact decode_2E (op2 := 3) (ia := none) (ib := some il.bytes) (k := fun p q r => .ok (.checki il x p q, r)) rfl
      (by decide) (by decide) x.isLt (lenCode_lt il)
      (fun _ _ e1 e2 e3 => by simp [decode2E, e1, e2, e3, two]) ha hb rest
  | movmi il a b d | cmpmi il a b d =>
    simp only [Instr.wf, Bool.and_eq_true] at h
    obtain ⟨⟨ha, hb⟩, hd⟩ := h
    exact decode_CE_disp (by decide) (lenCode_lt il)
      (fun _ _ e1 e2 => by simp [decodeCE, e1, e2]) ha hb hd rest
  | inssi il a b o l =>
    obtain ⟨ha, hb⟩ := Bool.and_eq_true_iff.1 h
    exact decode_CE_field (ia := some il.bytes) (by decide) (lenCode_lt il)
      (fun _ _ e1 e2 => by simp [decodeCE, e1, e2]) ha hb rest
  | extsi il a b o l =>
    obtain ⟨ha, hb⟩ := Bool.and_eq_true_iff.1 h
    exact decode_CE_field (ia := none) (by decide) (lenCode_lt il)
      (fun _ _ e1 e2 => by simp [decodeCE, e1, e2]) ha hb rest
  | movxbw a b | movzbw a b =>
    obtain ⟨ha, hb⟩ := Bool.and_eq_true_iff.1 h
    exact decode_CE_two (ia := some 1) (ib := none) (by decide) (by decide)
      (fun _ _ e1 e2 => by simp [decodeCE, e1, e2, fixed]) ha hb rest
  | movzid il a b | movxid il a b =>
    simp only [Instr.wf, Bool.and_eq_true] at h
    obtain ⟨⟨hs, ha⟩, hb⟩ := h
    exact decode_CE_two (ia := some il.bytes) (ib := none) (by decide) (lenCode_lt il)
      (fun _ _ e1 e2 => by simp [decodeCE, e1, e2, fixed_true hs]) ha hb rest
  | muli il a b | meii il a b | deii il a b | quoi il a b | remi il a b | modi il a b | divi il a b =>
    obtain ⟨ha, hb⟩ := Bool.and_eq_true_iff.1 h
    exact decode_CE_two (ia := some il.bytes) (ib := none) (by decide) (lenCode_lt il)
      (fun _ _ e1 e2 => by simp [decodeCE, e1, e2]) ha hb rest
  | rdval g | wrval g =>
    exact decode_1E (imm := none) (by decide) (by decide)
      (fun _ _ e1 e2 e3 e4 => by simp [decode1E, e1, e2, e3, e4, fixed]) h rest
  | lmr m g =>
    exact decode_1E (imm := some 4) (by decide) (mmuRegCode_lt m)
      (fun _ _ e1 e2 e3 e4 => by simp [decode1E, e1, e2, e3, e4, fixed]) h rest
  | smr m g =>
    exact decode_1E (imm := none) (by decide) (mmuRegCode_lt m)
      (fun _ _ e1 e2 e3 e4 => by simp [decode1E, e1, e2, e3, e4, fixed]) h rest
  | movif il f a b =>
    obtain ⟨ha, hb⟩ := Bool.and_eq_true_iff.1 h
    exact decode_3E (ia := some il.bytes) (ib := none) (by decide) (fpCode_lt f) (lenCode_lt il)
      (fun _ _ e1 e2 e3 => by simp [decode3E, e1, e2, e3]) ha hb rest
  | movlf a b | movfl a b =>
    obtain ⟨ha, hb⟩ := Bool.and_eq_true_iff.1 h
    exact decode_3E (ia := some _) (ib := none) (by decide) (by decide) (by decide)
      (fun _ _ e1 e2 e3 => by simp only [decode3E, e1, e2, e3]; rfl) ha hb rest
  | roundfi f il a b | truncfi f il a b | floorfi f il a b =>
    obtain ⟨ha, hb⟩ := Bool.and_eq_true_iff.1 h
    exact decode_3E (ia := some f.bytes) (ib := none) (by decide) (fpCode_lt f) (lenCode_lt il)
      (fun _ _ e1 e2 e3 => by simp [decode3E, e1, e2, e3]) ha hb rest
  | lfsr a => exact decode_lfsr h rest
  | sfsr b => exact decode_sfsr h rest
  | addf f a b | movf f a b | subf f a b | negf f a b | divf f a b | mulf f a b | absf f a b =>
    obtain ⟨ha, hb⟩ := Bool.and_eq_true_iff.1 h
    exact decode_BE (ib := none) (by decide) (fun _ _ e1 e2 e3 => by simp [decodeBE, e1, e2, e3, fixed]) ha hb
      (.inl rfl) rest
  | cmpf f a b =>
    obtain ⟨ha, hb⟩ := Bool.and_eq_true_iff.1 h
    exact decode_BE (ib := some f.bytes) (by decide) (fun _ _ e1 e2 e3 => by simp [decodeBE, e1, e2, e3, fixed])
      ha hb (.inr rfl) rest
  | fpuIllegal0011 hi lo => exact (decode_fpuIllegal hi lo rest).1
  | fpuIllegal1001 hi lo => exact (decode_fpuIllegal hi lo rest).2
  | custom16 | custom36 | customB6 => rfl

end Sys2Proof
end

section
/-! PROOFS. The decoder accepts nothing but encodings of well-formed instructions (30_encoding.md, U4 to U14). -/
namespace Sys2Proof

/-- The bytes are those of a well-formed instruction and the rest. -/
def StandsAs (bytes rest : List Byte) (i : Instr) : Prop := i.wf = true ∧ bytes = encode i ++ rest

/-! ## Parts -/

/-- What two operands and nothing after them accept. -/
theorem two_inv {ca cb : Nat} {ia ib : Option Nat} {mk : Gen → Gen → Instr} {r rest : List Byte} {i : Instr}
    (hca : ca < 32) (hcb : cb < 32) (hia : immBytes ia ≤ 8) (hib : immBytes ib ≤ 8)
    (h : two ca cb ia ib mk r = .ok (i, rest)) :
    ∃ a b, i = mk a b ∧ genCode a = ca ∧ genCode b = cb ∧ a.fit ia ∧ b.fit ib ∧
      r = tail2 (immBytes ia) (immBytes ib) a b ++ rest := by
  obtain ⟨a, b, r', ea, eb, fa, fb, hr, hk⟩ := gen2_inv hca hcb hia hib h
  cases hk
  exact ⟨a, b, rfl, ea, eb, fa, fb, hr⟩

/-- What two operands and a displacement accept. -/
theorem twoDisp_inv {ca cb : Nat} {ia ib : Option Nat} {mk : Gen → Gen → Disp → Instr} {r rest : List Byte}
    {i : Instr} (hca : ca < 32) (hcb : cb < 32) (hia : immBytes ia ≤ 8) (hib : immBytes ib ≤ 8)
    (h : gen2 ca cb ia ib r (fun p q r' => tailDisp (mk p q) r') = .ok (i, rest)) :
    ∃ a b d, i = mk a b d ∧ genCode a = ca ∧ genCode b = cb ∧ a.fit ia ∧ b.fit ib ∧ d.wf = true ∧
      r = tail2 (immBytes ia) (immBytes ib) a b ++ (encodeDisp d ++ rest) := by
  obtain ⟨a, b, r', ea, eb, fa, fb, hr, hk⟩ := gen2_inv hca hcb hia hib h
  obtain ⟨d, rfl, hd, rfl⟩ := tailDisp_inv hk
  exact ⟨a, b, d, rfl, ea, eb, fa, fb, hd, hr⟩

/-- What a trailing byte accepts. -/
theorem tailByte_inv {mk : Byte → Instr} {r rest : List Byte} {i : Instr} (h : tailByte mk r = .ok (i, rest)) :
    ∃ b, i = mk b ∧ r = b :: rest := by
  cases r with
  | nil => cases h
  | cons b r => cases h; exact ⟨b, rfl, rfl⟩

/-- What one operand and nothing after it accepts. -/
theorem one_inv {c : Nat} {imm : Option Nat} {mk : Gen → Instr} {r rest : List Byte} {i : Instr} (hc : c < 32)
    (hi : immBytes imm ≤ 8) (h : one c imm mk r = .ok (i, rest)) :
    ∃ g, i = mk g ∧ genCode g = c ∧ g.fit imm ∧ r = tail1 (immBytes imm) g ++ rest := by
  obtain ⟨g, r', hg, fg, hr, hk⟩ := gen1_inv hc hi h
  cases hk
  exact ⟨g, rfl, hg, fg, hr⟩

/-- A fixed field is accepted with its value only (U11). -/
theorem fixed_inv {c : Bool} {k : Decoded} {x : Instr × List Byte} (h : fixed c k = .ok x) : c = true ∧ k = .ok x := by
  cases c with
  | false => cases h
  | true => exact ⟨rfl, h⟩

/-- A length field is accepted with the code of a length only (U9). -/
theorem withLen_inv {c : Nat} {k : IntLen → Decoded} {x : Instr × List Byte} (h : withLen c k = .ok x) :
    ∃ i, c = lenCode i ∧ k i = .ok x := by
  unfold withLen at h
  split at h
  · exact ⟨.b, rfl, h⟩
  · exact ⟨.w, rfl, h⟩
  · exact ⟨.d, rfl, h⟩
  · cases h

/-- The options of a String instruction are accepted with the code of a condition only (U10). -/
theorem withStrOpt_inv {short : Nat} {k : StrOpt → Decoded} {x : Instr × List Byte} (hs : short < 16)
    (h : withStrOpt short k = .ok x) : ∃ o, short = strOptCode (short % 2) o ∧ k o = .ok x := by
  have back (o : StrOpt) (ho : o.backward = (short / 2 % 2 == 1)) :
      (if o.backward = true then 2 else 0) = short / 2 % 2 * 2 := by
    rw [ho]
    rcases Nat.mod_two_eq_zero_or_one (short / 2) with e | e <;> simp [e]
  unfold withStrOpt at h
  split at h
  · exact ⟨_, by rw [strOptCode, back _ rfl]; dsimp only; omega, h⟩
  · exact ⟨_, by rw [strOptCode, back _ rfl]; dsimp only; omega, h⟩
  · exact ⟨_, by rw [strOptCode, back _ rfl]; dsimp only; omega, h⟩
  · cases h

/-- The length codes of 2-byte formats. -/
theorem lenCode_lenOfCode {c : Nat} (h : c < 4) (h2 : c ≠ 2) : lenCode (lenOfCode c) = c := by
  interval_cases c <;> first | rfl | exact absurd rfl h2

/-- A procreg code that names a register is that register's (U12). -/
theorem procRegCode_of_eq {c : Nat} {p : ProcReg} (h : procRegOfCode c = some p) : procRegCode p = c := by
  unfold procRegOfCode at h
  split at h <;> cases h <;> rfl

/-- An mmureg code that names a register is that register's (U12). -/
theorem mmuRegCode_of_eq {c : Nat} {m : MmuReg} (h : mmuRegOfCode c = some m) : mmuRegCode m = c := by
  unfold mmuRegOfCode at h
  split at h <;> cases h <;> rfl

theorem immBytes_int (i : IntLen) : immBytes (some i.bytes) ≤ 8 := Laws.IntLen.bytes_le i
theorem immBytes_fp (f : FpLen) : immBytes (some f.bytes) ≤ 8 := Laws.FpLen.bytes_le f


/-! ## One byte -/

/-- What format F-1 accepts (R170). -/
theorem decodeF1_inv {op : Nat} {r rest : List Byte} {i : Instr} (ho : op < 16)
    (h : decodeF1 op r = .ok (i, rest)) : StandsAs (encodeF1 op ++ r) rest i := by
  unfold decodeF1 at h
  split at h
  case h_9 =>
    rcases r with _ | ⟨l, r⟩
    · cases h
    · obtain ⟨d, rfl, hd, rfl⟩ := tailDisp_inv h
      exact ⟨hd, rfl⟩
  case h_6 | h_11 | h_12 | h_13 | h_14 | h_15 => cases h; exact ⟨rfl, rfl⟩
  case h_7 | h_8 | h_10 => obtain ⟨l, rfl, rfl⟩ := tailByte_inv h; exact ⟨rfl, rfl⟩
  case h_16 =>
    have e : op = 15 := by grind
    subst e
    cases h
    exact ⟨rfl, rfl⟩
  all_goals
    obtain ⟨d, rfl, hd, rfl⟩ := tailDisp_inv h
    exact ⟨hd, by simp [encode]⟩

/-- What format F-Bcond accepts (R171, U14). -/
theorem decodeBcond_inv {cond : Nat} {r rest : List Byte} {i : Instr} (h : decodeBcond cond r = .ok (i, rest)) :
    StandsAs (byteOf (16 * cond + 10) :: r) rest i := by
  unfold decodeBcond at h
  split at h
  case h_16 => cases h
  all_goals
    obtain ⟨d, rfl, hd, rfl⟩ := tailDisp_inv h
    exact ⟨hd, rfl⟩

/-! ## Two bytes -/

/-- The words of format F-GG with their fields. -/
theorem basic2_gg {w op : Nat} {a b : Gen} {na nb : Nat} {il : IntLen} {rest : List Byte} (hw : w < 65536)
    (hi : w % 4 = lenCode il) (ho : w / 4 % 16 = op) (ha : genCode a = w / 2048 % 32) (hb : genCode b = w / 64 % 32) :
    basic2 w ++ (tail2 na nb a b ++ rest) = encodeGG op il na nb a b ++ rest := by
  rw [encodeGG, List.append_assoc, show lenCode il + 4 * op + 64 * genCode b + 2048 * genCode a = w by omega]

/-- ADDR or LXPD, whichever the words belong to, is well-formed and has them (log 20). -/
theorem mkAddr_standsAs {a b : Gen} (ha : a.wfLoc = true) (hb : b.wfLoc = true) :
    (mkAddr a b).wf = true ∧ encode (mkAddr a b) = encodeGG 9 .d 0 0 a b := by
  unfold mkAddr
  split
  · rename_i d1 d2
    obtain ⟨h1, h2⟩ := Bool.and_eq_true_iff.1 (show (d1.wf && d2.wf) = true from ha)
    by_cases h0 : d2.value = 0
    · rw [if_pos h0]
      exact ⟨by simp [Instr.wf, h1, h2, hb, h0], rfl⟩
    · rw [if_neg h0]
      exact ⟨by simp [Instr.wf, ha, hb, Gen.isLinkEntry, h0], rfl⟩
  · rename_i hne
    have hl : a.isLinkEntry = false := by
      unfold Gen.isLinkEntry
      split
      · rename_i d1 d2; exact absurd rfl (hne d1 d2)
      · rfl
    exact ⟨by simp [Instr.wf, ha, hb, hl], rfl⟩

/-- What format F-GG accepts (R175). -/
theorem decodeGG_inv {w : Nat} {r rest : List Byte} {i : Instr} (hw : w < 65536) (h2 : w % 4 ≠ 2)
    (h : decodeGG (w / 4 % 16) (w % 4) (w / 2048 % 32) (w / 64 % 32) r = .ok (i, rest)) :
    StandsAs (basic2 w ++ r) rest i := by
  have ha : w / 2048 % 32 < 32 := Nat.mod_lt _ (by decide)
  have hb : w / 64 % 32 < 32 := Nat.mod_lt _ (by decide)
  have hi : w % 4 = lenCode (lenOfCode (w % 4)) := (lenCode_lenOfCode (by omega) h2).symm
  have hn := immBytes_int (lenOfCode (w % 4))
  unfold decodeGG at h
  dsimp only at h
  split at h
  case h_13 => cases h
  case h_2 ho =>
    obtain ⟨a, b, rfl, ea, eb, fa, fb, rfl⟩ := two_inv ha hb hn hn h
    exact ⟨Bool.and_eq_true_iff.2 ⟨fa, fb⟩, basic2_gg hw hi ho ea eb⟩
  case h_8 ho =>
    obtain ⟨h3, h⟩ := fixed_inv h
    obtain ⟨a, b, rfl, ea, eb, fa, fb, rfl⟩ := two_inv ha hb (by decide) (by decide) h
    obtain ⟨hwf, he⟩ := mkAddr_standsAs fa fb
    exact ⟨hwf, by rw [he]; exact basic2_gg hw (il := .d) (beq_iff_eq.1 h3) ho ea eb⟩
  all_goals
    rename_i ho
    obtain ⟨a, b, rfl, ea, eb, fa, fb, rfl⟩ := two_inv ha hb hn (by decide) h
    exact ⟨Bool.and_eq_true_iff.2 ⟨fa, fb⟩, basic2_gg hw hi ho ea eb⟩

/-- The words of formats F-GQ and F-G with their fields. -/
theorem basic2_gq {w op q n : Nat} {g : Gen} {il : IntLen} {rest : List Byte} (hw : w < 65536) (h3 : w / 4 % 4 = 3)
    (hi : w % 4 = lenCode il) (ho : w / 16 % 8 = op) (hq : w / 128 % 16 = q) (hg : genCode g = w / 2048 % 32) :
    basic2 w ++ (tail1 n g ++ rest) = encodeGQ op q il n g ++ rest := by
  rw [encodeGQ, List.append_assoc, show lenCode il + 12 + 16 * op + 128 * q + 2048 * genCode g = w by omega]

/-- What Scondi accepts (R173, U14). -/
theorem decodeScond_inv {il : IntLen} {cond c : Nat} {r rest : List Byte} {i : Instr} (hc : c < 32)
    (h : decodeScond il cond c r = .ok (i, rest)) :
    i.wf = true ∧ ∃ g, genCode g = c ∧ r = tail1 0 g ++ rest ∧ encode i = encodeGQ 3 cond il 0 g := by
  unfold decodeScond at h
  split at h
  case h_15 => cases h
  all_goals
    obtain ⟨g, rfl, hg, fg, rfl⟩ := one_inv hc (by decide) h
    exact ⟨fg, g, hg, rfl, rfl⟩

/-- What format F-G accepts (R173, U11). -/
theorem decodeG_inv {op ic c : Nat} {r rest : List Byte} {i : Instr} (hc : c < 32) (hi : ic < 4) (h2 : ic ≠ 2)
    (h : decodeG op ic c r = .ok (i, rest)) :
    i.wf = true ∧ ∃ g n, genCode g = c ∧ r = tail1 n g ++ rest ∧ encode i = encodeG op (lenOfCode ic) n g := by
  have hn := immBytes_int (lenOfCode ic)
  have short (h3 : (ic != 3) = true) : (lenOfCode ic).short = true := by
    interval_cases ic <;> first | exact absurd rfl h2 | rfl | cases h3
  unfold decodeG at h
  split at h
  case h_8 => cases h
  case h_1 | h_3 | h_6 =>
    obtain ⟨h3, h⟩ := fixed_inv h
    obtain rfl : ic = 3 := by simpa using h3
    obtain ⟨g, rfl, hg, fg, rfl⟩ := one_inv hc (by decide) h
    exact ⟨fg, g, 0, hg, rfl, rfl⟩
  case h_2 | h_4 =>
    obtain ⟨h3, h⟩ := fixed_inv h
    obtain ⟨g, rfl, hg, fg, rfl⟩ := one_inv hc hn h
    exact ⟨Bool.and_eq_true_iff.2 ⟨short h3, fg⟩, g, _, hg, rfl, rfl⟩
  all_goals
    obtain ⟨g, rfl, hg, fg, rfl⟩ := one_inv hc hn h
    exact ⟨fg, g, _, hg, rfl, rfl⟩

/-- What formats F-GQ and F-G accept (R172, R173, U12, U14). -/
theorem decodeGQ_inv {w : Nat} {r rest : List Byte} {i : Instr} (hw : w < 65536) (h2 : w % 4 ≠ 2)
    (h3 : w / 4 % 4 = 3) (h : decodeGQ (w / 16 % 8) (w % 4) (w / 128 % 16) (w / 2048 % 32) r = .ok (i, rest)) :
    StandsAs (basic2 w ++ r) rest i := by
  have hc : w / 2048 % 32 < 32 := Nat.mod_lt _ (by decide)
  have hi : w % 4 = lenCode (lenOfCode (w % 4)) := (lenCode_lenOfCode (by omega) h2).symm
  have hn := immBytes_int (lenOfCode (w % 4))
  have hq : w / 128 % 16 = (BitVec.ofNat 4 (w / 128 % 16)).toNat := by rw [BitVec.toNat_ofNat]; omega
  unfold decodeGQ at h
  dsimp only at h
  split at h
  case h_1 ho | h_6 ho =>
    obtain ⟨g, rfl, hg, fg, rfl⟩ := one_inv hc (by decide) h
    exact ⟨fg, basic2_gq hw h3 hi ho hq hg⟩
  case h_2 ho =>
    obtain ⟨g, rfl, hg, fg, rfl⟩ := one_inv hc hn h
    exact ⟨fg, basic2_gq hw h3 hi ho hq hg⟩
  case h_3 ho =>
    split at h
    · rename_i p hp
      obtain ⟨g, rfl, hg, fg, rfl⟩ := one_inv hc (by decide) h
      exact ⟨fg, basic2_gq hw h3 hi ho (procRegCode_of_eq hp).symm hg⟩
    · cases h
  case h_4 ho =>
    obtain ⟨hwf, g, hg, rfl, he⟩ := decodeScond_inv hc h
    exact ⟨hwf, by rw [he]; exact basic2_gq hw h3 hi ho rfl hg⟩
  case h_5 ho =>
    obtain ⟨g, r', hg, fg, rfl, hk⟩ := gen1_inv hc (by decide) h
    obtain ⟨d, rfl, hd, rfl⟩ := tailDisp_inv hk
    exact ⟨Bool.and_eq_true_iff.2 ⟨fg, hd⟩,
      (basic2_gq hw h3 hi ho hq hg).trans (List.append_assoc ..).symm⟩
  case h_7 ho =>
    split at h
    · rename_i p hp
      obtain ⟨g, rfl, hg, fg, rfl⟩ := one_inv hc hn h
      exact ⟨fg, basic2_gq hw h3 hi ho (procRegCode_of_eq hp).symm hg⟩
    · cases h
  case h_8 =>
    obtain ⟨hwf, g, n, hg, rfl, he⟩ := decodeG_inv hc (by omega) h2 h
    exact ⟨hwf, by rw [he]; exact basic2_gq hw h3 hi (by grind) rfl hg⟩

end Sys2Proof
end

section
/-! PROOFS. The 3-byte formats accept nothing but encodings, and with them the decoder (30_encoding.md R181, R183). -/
namespace Sys2Proof

/-! ## Words with their fields -/

/-- The words of formats F-4E and F-CE with their fields. -/
theorem basic3_4E {w fb op ic na nb : Nat} {a b : Gen} {rest : List Byte} (hw : w < 16777216) (hf : w % 256 = fb)
    (hi : w / 256 % 4 = ic) (ho : w / 1024 % 16 = op) (ha : genCode a = w / 524288 % 32)
    (hb : genCode b = w / 16384 % 32) :
    basic3 w ++ (tail2 na nb a b ++ rest) = encode4E fb op ic na nb a b ++ rest := by
  rw [encode4E, List.append_assoc,
    show fb + 256 * ic + 1024 * op + 16384 * genCode b + 524288 * genCode a = w by omega]

/-- The words of the 2E group with their fields. -/
theorem basic3_2E {w fb b10 reg ic na nb : Nat} {a b : Gen} {rest : List Byte} (hw : w < 16777216)
    (hf : w % 256 = fb) (hi : w / 256 % 4 = ic) (ho : w / 1024 % 2 = b10) (hr : w / 2048 % 8 = reg)
    (ha : genCode a = w / 524288 % 32) (hb : genCode b = w / 16384 % 32) :
    basic3 w ++ (tail2 na nb a b ++ rest) = encode2E fb b10 reg ic na nb a b ++ rest := by
  rw [encode2E, List.append_assoc,
    show fb + 256 * ic + 1024 * b10 + 2048 * reg + 16384 * genCode b + 524288 * genCode a = w by omega]

/-- The words of format F-1E with their fields. -/
theorem basic3_1E {w op short n : Nat} {g : Gen} {rest : List Byte} (hw : w < 16777216) (hf : w % 256 = 0x1E)
    (hi : w / 256 % 4 = 3) (ho : w / 1024 % 16 = op) (hz : w / 16384 % 2 = 0) (hs : w / 32768 % 16 = short)
    (hg : genCode g = w / 524288 % 32) :
    basic3 w ++ (tail1 n g ++ rest) = encode1E op short g n ++ rest := by
  rw [encode1E, List.append_assoc,
    show 0x1E + 768 + 1024 * op + 32768 * short + 524288 * genCode g = w by omega]

/-- The words of format F-3E with their fields. -/
theorem basic3_3E {w op fc ic na nb : Nat} {a b : Gen} {rest : List Byte} (hw : w < 16777216) (hf : w % 256 = 0x3E)
    (hi : w / 256 % 4 = ic) (hc : w / 1024 % 2 = fc) (ho : w / 2048 % 8 = op) (ha : genCode a = w / 524288 % 32)
    (hb : genCode b = w / 16384 % 32) :
    basic3 w ++ (tail2 na nb a b ++ rest) = encode3E op fc ic na nb a b ++ rest := by
  rw [encode3E, List.append_assoc,
    show 0x3E + 256 * ic + 1024 * fc + 2048 * op + 16384 * genCode b + 524288 * genCode a = w by omega]

/-- The words of format F-BE with their fields. -/
theorem basic3_BE {w op : Nat} {f : FpLen} {a b : Gen} {rest : List Byte} (hw : w < 16777216)
    (hf : w % 256 = 0xBE) (hc : w / 256 % 2 = fpCode f) (hz : w / 512 % 2 = 0) (ho : w / 1024 % 16 = op)
    (ha : genCode a = w / 524288 % 32) (hb : genCode b = w / 16384 % 32) :
    basic3 w ++ (tail2 f.bytes f.bytes a b ++ rest) = encodeBE op f a b ++ rest := by
  rw [encodeBE, List.append_assoc,
    show 0xBE + 256 * fpCode f + 1024 * op + 16384 * genCode b + 524288 * genCode a = w by omega]

/-- The words of format F-0E with their fields. -/
theorem basic3_0E {w op ic short : Nat} (hw : w < 16777216) (hf : w % 256 = 0x0E)
    (hz : (w / 16384 % 2 == 0 && w / 524288 % 32 == 0) = true) (hi : w / 256 % 4 = ic) (ho : w / 1024 % 16 = op)
    (hs : w / 32768 % 16 = short) : basic3 w = encode0E op ic short := by
  simp only [Bool.and_eq_true, beq_iff_eq] at hz
  obtain ⟨hz1, hz2⟩ := hz
  rw [encode0E, show 0x0E + 256 * ic + 1024 * op + 32768 * short = w by omega]

/-- The three fields that every 3-byte format with two operands has are in range. -/
theorem genFields_lt (w : Nat) : w / 524288 % 32 < 32 ∧ w / 16384 % 32 < 32 :=
  ⟨Nat.mod_lt _ (by decide), Nat.mod_lt _ (by decide)⟩

/-- A register field of three bits. -/
theorem fin8_ofNat_field (k : Nat) : (Fin.ofNat 8 (k % 8)).val = k % 8 := Nat.mod_mod ..

/-! ## Format F-0E -/

/-- What a String instruction accepts (R174, U10). -/
theorem decodeString_inv {ic short : Nat} {plain : IntLen → StrOpt → Instr} {tr : StrOpt → Instr}
    {r rest : List Byte} {i : Instr} (hs : short < 16) (h : decodeString ic short plain tr r = .ok (i, rest)) :
    r = rest ∧ ∃ o, (∃ il, i = plain il o ∧ ic = lenCode il ∧ short = strOptCode 0 o) ∨
      (i = tr o ∧ ic = 0 ∧ short = strOptCode 1 o) := by
  unfold decodeString at h
  obtain ⟨il, rfl, hl⟩ := withLen_inv h
  obtain ⟨o, ho, hk⟩ := withStrOpt_inv hs hl
  split at hk
  · rename_i h0
    cases hk
    exact ⟨rfl, o, .inl ⟨il, rfl, rfl, by rw [h0] at ho; exact ho⟩⟩
  · rename_i h0
    split at hk
    · rename_i hb
      subst hb
      cases hk
      refine ⟨rfl, o, .inr ⟨rfl, rfl, ?_⟩⟩
      rw [show short % 2 = 1 by omega] at ho
      exact ho
    · cases hk

/-- What format F-0E accepts (R174). -/
theorem decode0E_inv {w : Nat} {r rest : List Byte} {i : Instr} (hw : w < 16777216) (hf : w % 256 = 0x0E)
    (h : decode0E w r = .ok (i, rest)) : StandsAs (basic3 w ++ r) rest i := by
  have hs : w / 32768 % 16 < 16 := Nat.mod_lt _ (by decide)
  have string {op : Nat} {plain : IntLen → StrOpt → Instr} {tr : StrOpt → Instr} (ho : w / 1024 % 16 = op)
      (hp : ∀ il o, (plain il o).wf = true ∧ encode (plain il o) = encode0E op (lenCode il) (strOptCode 0 o))
      (ht : ∀ o, (tr o).wf = true ∧ encode (tr o) = encode0E op 0 (strOptCode 1 o))
      (h : fixed (w / 16384 % 2 == 0 && w / 524288 % 32 == 0)
        (decodeString (w / 256 % 4) (w / 32768 % 16) plain tr r) = .ok (i, rest)) :
      StandsAs (basic3 w ++ r) rest i := by
    obtain ⟨hz, h⟩ := fixed_inv h
    obtain ⟨rfl, o, ⟨il, rfl, hi, ho'⟩ | ⟨rfl, hi, ho'⟩⟩ := decodeString_inv hs h
    · exact ⟨(hp il o).1, by rw [(hp il o).2, basic3_0E hw hf hz hi ho ho']⟩
    · exact ⟨(ht o).1, by rw [(ht o).2, basic3_0E hw hf hz hi ho ho']⟩
  unfold decode0E at h
  dsimp only at h
  split at h
  case h_1 ho => exact string ho (fun _ _ => ⟨rfl, rfl⟩) (fun _ => ⟨rfl, rfl⟩) h
  case h_2 ho => exact string ho (fun _ _ => ⟨rfl, rfl⟩) (fun _ => ⟨rfl, rfl⟩) h
  case h_3 ho =>
    obtain ⟨hz, h⟩ := fixed_inv h
    obtain ⟨hz, hi⟩ := Bool.and_eq_true_iff.1 hz
    cases h
    refine ⟨rfl, ?_⟩
    rw [encode, basic3_0E hw hf hz (beq_iff_eq.1 hi) ho (short := (BitVec.ofNat 4 (w / 32768 % 16)).toNat)
      (by rw [BitVec.toNat_ofNat]; omega)]
  case h_4 ho => exact string ho (fun _ _ => ⟨rfl, rfl⟩) (fun _ => ⟨rfl, rfl⟩) h
  case h_5 => cases h

/-! ## Formats F-4E and F-CE -/

/-- What an instruction of format F-4E or F-CE with a length field and two operands accepts. -/
theorem basic3_len_two_inv {w fb op : Nat} {ia : IntLen → Option Nat} {mk : IntLen → Gen → Gen → Instr}
    {r rest : List Byte} {i : Instr} (hw : w < 16777216) (hf : w % 256 = fb) (ho : w / 1024 % 16 = op)
    (hn : ∀ il, immBytes (ia il) ≤ 8)
    (h : withLen (w / 256 % 4) (fun il => two (w / 524288 % 32) (w / 16384 % 32) (ia il) none (mk il) r)
      = .ok (i, rest)) :
    ∃ il a b, i = mk il a b ∧ a.fit (ia il) ∧ b.wfLoc = true ∧
      basic3 w ++ r = encode4E fb op (lenCode il) (immBytes (ia il)) 0 a b ++ rest := by
  obtain ⟨il, hi, h⟩ := withLen_inv h
  obtain ⟨a, b, rfl, ea, eb, fa, fb, rfl⟩ := two_inv (genFields_lt w).1 (genFields_lt w).2 (hn il) (by decide) h
  exact ⟨il, a, b, rfl, fa, fb, basic3_4E hw hf hi ho ea eb⟩

/-- What format F-4E accepts (R176). -/
theorem decode4E_inv {w : Nat} {r rest : List Byte} {i : Instr} (hw : w < 16777216) (hf : w % 256 = 0x4E)
    (h : decode4E w r = .ok (i, rest)) : StandsAs (basic3 w ++ r) rest i := by
  unfold decode4E at h
  dsimp only at h
  split at h
  case h_15 => cases h
  case h_1 ho | h_2 ho | h_5 ho =>
    obtain ⟨il, a, b, rfl, fa, fb, e⟩ := basic3_len_two_inv (ia := fun _ => some 1) hw hf ho (fun _ => by decide) h
    exact ⟨Bool.and_eq_true_iff.2 ⟨fa, fb⟩, e⟩
  all_goals
    rename_i ho
    obtain ⟨il, a, b, rfl, fa, fb, e⟩ := basic3_len_two_inv (ia := fun il => some il.bytes) hw hf ho immBytes_int h
    exact ⟨Bool.and_eq_true_iff.2 ⟨fa, fb⟩, e⟩

/-- What MOVMi and CMPMi accept. -/
theorem basic3_block_inv {w op : Nat} {mk : IntLen → Gen → Gen → Disp → Instr} {r rest : List Byte} {i : Instr}
    (hw : w < 16777216) (hf : w % 256 = 0xCE) (ho : w / 1024 % 16 = op)
    (h : withLen (w / 256 % 4) (fun il => gen2 (w / 524288 % 32) (w / 16384 % 32) none none r
      (fun p q r' => tailDisp (mk il p q) r')) = .ok (i, rest)) :
    ∃ il a b d, i = mk il a b d ∧ a.wfLoc = true ∧ b.wfLoc = true ∧ d.wf = true ∧
      basic3 w ++ r = encode4E 0xCE op (lenCode il) 0 0 a b ++ encodeDisp d ++ rest := by
  obtain ⟨il, hi, h⟩ := withLen_inv h
  obtain ⟨a, b, d, rfl, ea, eb, fa, fb, hd, rfl⟩ :=
    twoDisp_inv (genFields_lt w).1 (genFields_lt w).2 (by decide) (by decide) h
  exact ⟨il, a, b, d, rfl, fa, fb, hd, (basic3_4E hw hf hi ho ea eb).trans (List.append_assoc ..).symm⟩

/-- The byte of a field from its offset and its length less one. -/
theorem byteOf_field (m : Byte) :
    byteOf (32 * (BitVec.ofNat 3 (m.toNat / 32)).toNat + (BitVec.ofNat 5 m.toNat).toNat) = m := by
  have := m.isLt
  exact byteOf_eq (by simp only [BitVec.toNat_ofNat]; omega)

/-- What INSSi and EXTSi accept. -/
theorem basic3_field_inv {w op : Nat} {ia : IntLen → Option Nat}
    {mk : IntLen → Gen → Gen → BitVec 3 → BitVec 5 → Instr} {r rest : List Byte} {i : Instr}
    (hw : w < 16777216) (hf : w % 256 = 0xCE) (ho : w / 1024 % 16 = op) (hn : ∀ il, immBytes (ia il) ≤ 8)
    (h : withLen (w / 256 % 4) (fun il => gen2 (w / 524288 % 32) (w / 16384 % 32) (ia il) none r
      (fun p q r' => tailByte (fun m => mk il p q (BitVec.ofNat 3 (m.toNat / 32)) (BitVec.ofNat 5 m.toNat)) r'))
      = .ok (i, rest)) :
    ∃ il a b o l, i = mk il a b o l ∧ a.fit (ia il) ∧ b.wfLoc = true ∧ basic3 w ++ r
      = encode4E 0xCE op (lenCode il) (immBytes (ia il)) 0 a b ++ [byteOf (32 * o.toNat + l.toNat)] ++ rest := by
  obtain ⟨il, hi, h⟩ := withLen_inv h
  obtain ⟨a, b, r', ea, eb, fa, fb, rfl, hk⟩ := gen2_inv (genFields_lt w).1 (genFields_lt w).2 (hn il) (by decide) h
  obtain ⟨m, rfl, rfl⟩ := tailByte_inv hk
  exact ⟨il, a, b, _, _, rfl, fa, fb,
    by rw [byteOf_field, List.append_assoc, List.singleton_append]; exact basic3_4E hw hf hi ho ea eb⟩

/-- What format F-CE accepts (R178). -/
theorem decodeCE_inv {w : Nat} {r rest : List Byte} {i : Instr} (hw : w < 16777216) (hf : w % 256 = 0xCE)
    (h : decodeCE w r = .ok (i, rest)) : StandsAs (basic3 w ++ r) rest i := by
  unfold decodeCE at h
  dsimp only at h
  split at h
  case h_16 => cases h
  case h_1 ho | h_2 ho =>
    obtain ⟨il, a, b, d, rfl, fa, fb, hd, e⟩ := basic3_block_inv hw hf ho h
    exact ⟨by simp [Instr.wf, fa, fb, hd], e⟩
  case h_3 ho =>
    obtain ⟨il, a, b, o, l, rfl, fa, fb, e⟩ :=
      basic3_field_inv (ia := fun il => some il.bytes) hw hf ho immBytes_int h
    exact ⟨Bool.and_eq_true_iff.2 ⟨fa, fb⟩, e⟩
  case h_4 ho =>
    obtain ⟨il, a, b, o, l, rfl, fa, fb, e⟩ := basic3_field_inv (ia := fun _ => none) hw hf ho (fun _ => by decide) h
    exact ⟨Bool.and_eq_true_iff.2 ⟨fa, fb⟩, e⟩
  case h_5 ho | h_6 ho =>
    obtain ⟨hi, h⟩ := fixed_inv h
    obtain ⟨a, b, rfl, ea, eb, fa, fb, rfl⟩ := two_inv (genFields_lt w).1 (genFields_lt w).2 (by decide) (by decide) h
    exact ⟨Bool.and_eq_true_iff.2 ⟨fa, fb⟩, basic3_4E hw hf (beq_iff_eq.1 hi) ho ea eb⟩
  case h_7 ho | h_8 ho =>
    obtain ⟨il, hi, h⟩ := withLen_inv h
    obtain ⟨hs, h⟩ := fixed_inv h
    obtain ⟨a, b, rfl, ea, eb, fa, fb, rfl⟩ :=
      two_inv (genFields_lt w).1 (genFields_lt w).2 (immBytes_int il) (by decide) h
    exact ⟨Bool.and_eq_true_iff.2 ⟨Bool.and_eq_true_iff.2 ⟨hs, fa⟩, fb⟩, basic3_4E hw hf hi ho ea eb⟩
  all_goals
    rename_i ho
    obtain ⟨il, a, b, rfl, fa, fb, e⟩ := basic3_len_two_inv (ia := fun il => some il.bytes) hw hf ho immBytes_int h
    exact ⟨Bool.and_eq_true_iff.2 ⟨fa, fb⟩, e⟩

/-! ## The 2E group -/

/-- What an instruction of the 2E group with a length field and two operands accepts. -/
theorem basic3_2E_two_inv {w fb b10 reg : Nat} {ia ib : IntLen → Option Nat} {mk : IntLen → Gen → Gen → Instr}
    {r rest : List Byte} {i : Instr} (hw : w < 16777216) (hf : w % 256 = fb) (ho : w / 1024 % 2 = b10)
    (hr : w / 2048 % 8 = reg) (ha : ∀ il, immBytes (ia il) ≤ 8) (hb : ∀ il, immBytes (ib il) ≤ 8)
    (h : withLen (w / 256 % 4) (fun il => two (w / 524288 % 32) (w / 16384 % 32) (ia il) (ib il) (mk il) r)
      = .ok (i, rest)) :
    ∃ il a b, i = mk il a b ∧ a.fit (ia il) ∧ b.fit (ib il) ∧
      basic3 w ++ r = encode2E fb b10 reg (lenCode il) (immBytes (ia il)) (immBytes (ib il)) a b ++ rest := by
  obtain ⟨il, hi, h⟩ := withLen_inv h
  obtain ⟨a, b, rfl, ea, eb, fa, fb, rfl⟩ := two_inv (genFields_lt w).1 (genFields_lt w).2 (ha il) (hb il) h
  exact ⟨il, a, b, rfl, fa, fb, basic3_2E hw hf hi ho hr ea eb⟩

/-- What EXTi and INSi accept. -/
theorem basic3_2E_disp_inv {w fb reg : Nat} {ia : IntLen → Option Nat} {mk : IntLen → Gen → Gen → Disp → Instr}
    {r rest : List Byte} {i : Instr} (hw : w < 16777216) (hf : w % 256 = fb) (ho : w / 1024 % 2 = 0)
    (hr : w / 2048 % 8 = reg) (ha : ∀ il, immBytes (ia il) ≤ 8)
    (h : withLen (w / 256 % 4) (fun il => gen2 (w / 524288 % 32) (w / 16384 % 32) (ia il) none r
      (fun p q r' => tailDisp (mk il p q) r')) = .ok (i, rest)) :
    ∃ il a b d, i = mk il a b d ∧ a.fit (ia il) ∧ b.wfLoc = true ∧ d.wf = true ∧
      basic3 w ++ r = encode2E fb 0 reg (lenCode il) (immBytes (ia il)) 0 a b ++ encodeDisp d ++ rest := by
  obtain ⟨il, hi, h⟩ := withLen_inv h
  obtain ⟨a, b, d, rfl, ea, eb, fa, fb, hd, rfl⟩ :=
    twoDisp_inv (genFields_lt w).1 (genFields_lt w).2 (ha il) (by decide) h
  exact ⟨il, a, b, d, rfl, fa, fb, hd, (basic3_2E hw hf hi ho hr ea eb).trans (List.append_assoc ..).symm⟩

/-- What the 2E group accepts (R177). -/
theorem decode2E_inv {op2 w : Nat} {r rest : List Byte} {i : Instr} (hw : w < 16777216) (h4 : op2 < 4)
    (hf : w % 256 = 0x2E + 64 * op2) (h : decode2E op2 w r = .ok (i, rest)) : StandsAs (basic3 w ++ r) rest i := by
  have hx : w / 2048 % 8 = (Fin.ofNat 8 (w / 2048 % 8)).val := (fin8_ofNat_field _).symm
  have bit (h0 : w / 1024 % 2 = 0 → False) : w / 1024 % 2 = 1 := by
    rcases Nat.mod_two_eq_zero_or_one (w / 1024) with e | e
    · exact (h0 e).elim
    · exact e
  unfold decode2E at h
  dsimp only at h
  split at h
  case h_1 ho =>
    obtain ⟨il, a, b, d, rfl, fa, fb, hd, e⟩ := basic3_2E_disp_inv (ia := fun _ => none) hw hf ho hx (fun _ => by decide) h
    exact ⟨Bool.and_eq_true_iff.2 ⟨Bool.and_eq_true_iff.2 ⟨fa, fb⟩, hd⟩, e⟩
  case h_2 ho =>
    obtain ⟨il, a, b, rfl, fa, fb, e⟩ := basic3_2E_two_inv (ia := fun il => some il.bytes) (ib := fun il => some il.bytes)
      hw hf (bit ho) hx immBytes_int immBytes_int h
    exact ⟨Bool.and_eq_true_iff.2 ⟨fa, fb⟩, e⟩
  case h_3 ho =>
    obtain ⟨hi, h⟩ := fixed_inv h
    obtain ⟨a, b, rfl, ea, eb, fa, fb, rfl⟩ := two_inv (genFields_lt w).1 (genFields_lt w).2 (by decide) (by decide) h
    exact ⟨Bool.and_eq_true_iff.2 ⟨fa, fb⟩, basic3_2E hw hf (beq_iff_eq.1 hi) ho hx ea eb⟩
  case h_4 ho =>
    obtain ⟨hr, h⟩ := fixed_inv h
    obtain ⟨il, a, b, rfl, fa, fb, e⟩ := basic3_2E_two_inv (ia := fun il => some il.bytes) (ib := fun _ => none)
      hw hf (bit ho) (beq_iff_eq.1 hr) immBytes_int (fun _ => by decide) h
    exact ⟨Bool.and_eq_true_iff.2 ⟨fa, fb⟩, e⟩
  case h_5 ho =>
    obtain ⟨il, a, b, d, rfl, fa, fb, hd, e⟩ :=
      basic3_2E_disp_inv (ia := fun il => some il.bytes) hw hf ho hx immBytes_int h
    exact ⟨Bool.and_eq_true_iff.2 ⟨Bool.and_eq_true_iff.2 ⟨fa, fb⟩, hd⟩, e⟩
  case h_6 ho =>
    split at h
    case h_3 => cases h
    all_goals
      rename_i hr
      obtain ⟨il, a, b, rfl, fa, fb, e⟩ := basic3_2E_two_inv (ia := fun _ => none) (ib := fun _ => none)
        hw hf (bit ho) hr (fun _ => by decide) (fun _ => by decide) h
      exact ⟨Bool.and_eq_true_iff.2 ⟨fa, fb⟩, e⟩
  case h_7 op2 _ _ n0 n1 n2 ho =>
    have e3 : op2 = 3 := by grind
    subst e3
    obtain ⟨il, a, b, rfl, fa, fb, e⟩ := basic3_2E_two_inv (ia := fun _ => none) (ib := fun il => some il.bytes)
      hw hf ho hx (fun _ => by decide) immBytes_int h
    exact ⟨Bool.and_eq_true_iff.2 ⟨fa, fb⟩, e⟩
  case h_8 => cases h

/-! ## Formats F-1E, F-3E and F-BE -/

/-- What format F-1E accepts (R179, U12). -/
theorem decode1E_inv {w : Nat} {r rest : List Byte} {i : Instr} (hw : w < 16777216) (hf : w % 256 = 0x1E)
    (h : decode1E w r = .ok (i, rest)) : StandsAs (basic3 w ++ r) rest i := by
  have fields (hok : (w / 16384 % 2 == 0 && w / 256 % 4 == 3) = true) : w / 16384 % 2 = 0 ∧ w / 256 % 4 = 3 := by
    simpa using hok
  unfold decode1E at h
  dsimp only at h
  split at h
  case h_5 => cases h
  case h_1 ho | h_2 ho =>
    obtain ⟨hz, h⟩ := fixed_inv h
    obtain ⟨hok, hs⟩ := Bool.and_eq_true_iff.1 hz
    obtain ⟨hz, hi⟩ := fields hok
    obtain ⟨g, rfl, hg, fg, rfl⟩ := one_inv (genFields_lt w).1 (by decide) h
    exact ⟨fg, basic3_1E hw hf hi ho hz (beq_iff_eq.1 hs) hg⟩
  case h_3 ho | h_4 ho =>
    obtain ⟨hok, h⟩ := fixed_inv h
    obtain ⟨hz, hi⟩ := fields hok
    split at h
    · rename_i m hm
      obtain ⟨g, rfl, hg, fg, rfl⟩ := one_inv (genFields_lt w).1 (by decide) h
      exact ⟨fg, basic3_1E hw hf hi ho hz (mmuRegCode_of_eq hm).symm hg⟩
    · cases h

/-- The floating-point length a code names has that code (R135). -/
theorem fpCode_fpOfCode {c : Nat} (h : c < 2) : fpCode (fpOfCode c) = c := by interval_cases c <;> rfl

/-- What a conversion with both length fields accepts. -/
theorem basic3_convert_inv {w op : Nat} {ia : IntLen → Option Nat} {mk : IntLen → Gen → Gen → Instr}
    {r rest : List Byte} {i : Instr} (hw : w < 16777216) (hf : w % 256 = 0x3E) (ho : w / 2048 % 8 = op)
    (hn : ∀ il, immBytes (ia il) ≤ 8)
    (h : withLen (w / 256 % 4) (fun il => two (w / 524288 % 32) (w / 16384 % 32) (ia il) none (mk il) r)
      = .ok (i, rest)) :
    ∃ il a b, i = mk il a b ∧ a.fit (ia il) ∧ b.wfLoc = true ∧ basic3 w ++ r
      = encode3E op (fpCode (fpOfCode (w / 1024 % 2))) (lenCode il) (immBytes (ia il)) 0 a b ++ rest := by
  obtain ⟨il, hi, h⟩ := withLen_inv h
  obtain ⟨a, b, rfl, ea, eb, fa, fb, rfl⟩ := two_inv (genFields_lt w).1 (genFields_lt w).2 (hn il) (by decide) h
  exact ⟨il, a, b, rfl, fa, fb,
    basic3_3E hw hf hi (fpCode_fpOfCode (Nat.mod_lt _ (by decide))).symm ho ea eb⟩

/-- What format F-3E accepts (R179). -/
theorem decode3E_inv {w : Nat} {r rest : List Byte} {i : Instr} (hw : w < 16777216) (hf : w % 256 = 0x3E)
    (h : decode3E w r = .ok (i, rest)) : StandsAs (basic3 w ++ r) rest i := by
  have hn := immBytes_fp (fpOfCode (w / 1024 % 2))
  unfold decode3E at h
  dsimp only at h
  split at h
  case h_1 ho =>
    obtain ⟨il, a, b, rfl, fa, fb, e⟩ := basic3_convert_inv (ia := fun il => some il.bytes) hw hf ho immBytes_int h
    exact ⟨Bool.and_eq_true_iff.2 ⟨fa, fb⟩, e⟩
  case h_2 ho =>
    obtain ⟨hz, h⟩ := fixed_inv h
    simp only [Bool.and_eq_true, beq_iff_eq] at hz
    obtain ⟨⟨hc, hi⟩, hb⟩ := hz
    obtain ⟨g, rfl, hg, fg, rfl⟩ := one_inv (genFields_lt w).1 (by decide) h
    refine ⟨fg, ?_⟩
    change basic3 w ++ (tail1 4 g ++ rest) = _
    rw [← show tail2 4 0 g (.mode (.reg 0)) = tail1 4 g from (tail2_reg0 4 g).1]
    exact basic3_3E hw hf hi hc ho hg hb.symm
  case h_3 ho | h_4 ho =>
    obtain ⟨hz, h⟩ := fixed_inv h
    obtain ⟨hc, hi⟩ := Bool.and_eq_true_iff.1 hz
    obtain ⟨a, b, rfl, ea, eb, fa, fb, rfl⟩ := two_inv (genFields_lt w).1 (genFields_lt w).2 (by decide) (by decide) h
    exact ⟨Bool.and_eq_true_iff.2 ⟨fa, fb⟩, basic3_3E hw hf (beq_iff_eq.1 hi) (beq_iff_eq.1 hc) ho ea eb⟩
  case h_7 ho =>
    obtain ⟨hz, h⟩ := fixed_inv h
    simp only [Bool.and_eq_true, beq_iff_eq] at hz
    obtain ⟨⟨hc, hi⟩, ha⟩ := hz
    obtain ⟨g, rfl, hg, fg, rfl⟩ := one_inv (genFields_lt w).2 (by decide) h
    refine ⟨fg, ?_⟩
    change basic3 w ++ (tail1 0 g ++ rest) = _
    rw [← show tail2 0 0 (.mode (.reg 0)) g = tail1 0 g from (tail2_reg0 0 g).2]
    exact basic3_3E hw hf hi hc ho ha.symm hg
  case h_5 ho | h_6 ho =>
    obtain ⟨il, a, b, rfl, fa, fb, e⟩ := basic3_convert_inv (ia := fun _ => some (fpOfCode (w / 1024 % 2)).bytes)
      hw hf ho (fun _ => hn) h
    exact ⟨Bool.and_eq_true_iff.2 ⟨fa, fb⟩, e⟩
  case h_8 =>
    obtain ⟨il, a, b, rfl, fa, fb, e⟩ := basic3_convert_inv (op := 7) (ia := fun _ => some (fpOfCode (w / 1024 % 2)).bytes)
      hw hf (by grind) (fun _ => hn) h
    exact ⟨Bool.and_eq_true_iff.2 ⟨fa, fb⟩, e⟩

/-- The words of an unassigned F-BE code (R261). -/
theorem basic3_fpuIllegal {w op : Nat} (hw : w < 16777216) (hf : w % 256 = 0xBE) (ho : w / 1024 % 16 = op) :
    basic3 w = basic3 (0xBE + 256 * (BitVec.ofNat 2 (w / 256)).toNat + 1024 * op
      + 16384 * (BitVec.ofNat 10 (w / 16384)).toNat) := by
  congr 1
  simp only [BitVec.toNat_ofNat]
  omega

/-- What format F-BE accepts (R179). -/
theorem decodeBE_inv {w : Nat} {r rest : List Byte} {i : Instr} (hw : w < 16777216) (hf : w % 256 = 0xBE)
    (h : decodeBE w r = .ok (i, rest)) : StandsAs (basic3 w ++ r) rest i := by
  have hn := immBytes_fp (fpOfCode (w / 256 % 2))
  have hc : w / 256 % 2 = fpCode (fpOfCode (w / 256 % 2)) := (fpCode_fpOfCode (Nat.mod_lt _ (by decide))).symm
  unfold decodeBE at h
  dsimp only at h
  split at h
  case h_11 => cases h
  case h_3 ho =>
    obtain ⟨hz, h⟩ := fixed_inv h
    obtain ⟨a, b, rfl, ea, eb, fa, fb, rfl⟩ := two_inv (genFields_lt w).1 (genFields_lt w).2 hn hn h
    exact ⟨Bool.and_eq_true_iff.2 ⟨fa, fb⟩, basic3_BE hw hf hc (beq_iff_eq.1 hz) ho ea eb⟩
  case h_4 ho | h_8 ho =>
    cases h
    exact ⟨rfl, by rw [basic3_fpuIllegal hw hf ho]; rfl⟩
  all_goals
    rename_i ho
    obtain ⟨hz, h⟩ := fixed_inv h
    obtain ⟨a, b, rfl, ea, eb, fa, fb, rfl⟩ := two_inv (genFields_lt w).1 (genFields_lt w).2 hn (by decide) h
    refine ⟨Bool.and_eq_true_iff.2 ⟨fa, fb⟩, ?_⟩
    rw [show tail2 (immBytes (some (fpOfCode (w / 256 % 2)).bytes)) (immBytes none) a b
      = tail2 (fpOfCode (w / 256 % 2)).bytes (fpOfCode (w / 256 % 2)).bytes a b from (tail2_of_wfLoc fb).symm]
    exact basic3_BE hw hf hc (beq_iff_eq.1 hz) ho ea eb

/-! ## The decoder -/

/-- What the 3-byte formats accept (R181). -/
theorem decode3_inv {w : Nat} {r rest : List Byte} {i : Instr} (hw : w < 16777216) (h14 : w % 16 = 14)
    (h : decode3 (w % 256 / 16) w r = .ok (i, rest)) : StandsAs (basic3 w ++ r) rest i := by
  unfold decode3 at h
  split at h
  case h_1 hh => exact decode0E_inv hw (by omega) h
  case h_2 hh => exact decode1E_inv hw (by omega) h
  case h_3 hh => exact decode2E_inv hw (by decide) (by omega) h
  case h_4 hh => exact decode3E_inv hw (by omega) h
  case h_5 hh => exact decode4E_inv hw (by omega) h
  case h_6 hh => exact decode2E_inv hw (by decide) (by omega) h
  case h_7 hh => exact decode2E_inv hw (by decide) (by omega) h
  case h_8 hh => exact decodeBE_inv hw (by omega) h
  case h_9 hh => exact decodeCE_inv hw (by omega) h
  case h_10 hh => exact decode2E_inv hw (by decide) (by omega) h
  case h_11 => cases h

/-- What the custom space accepts (R184). -/
theorem decodeCustom_inv {hi : Nat} {r rest : List Byte} {i : Instr} (h : decodeCustom hi r = .ok (i, rest)) :
    StandsAs (byteOf (16 * hi + 6) :: r) rest i := by
  unfold decodeCustom at h
  split at h <;> cases h <;> exact ⟨rfl, rfl⟩

/-- The decoder accepts nothing but a well-formed instruction's encoding (R183). -/
theorem decode_standsAs {bytes rest : List Byte} {i : Instr} (h : decode bytes = .ok (i, rest)) :
    StandsAs bytes rest i := by
  rcases bytes with _ | ⟨b0, r⟩
  · cases h
  have h0 := b0.isLt
  simp only [decode] at h
  split at h
  case isTrue hl =>
    split at h
    case h_1 hk =>
      have := decodeF1_inv (by omega) h
      rwa [encodeF1, byteOf_eq (b := b0) (by omega)] at this
    case h_2 hk =>
      have := decodeCustom_inv h
      rwa [byteOf_eq (b := b0) (by omega)] at this
    case h_3 hk =>
      have := decodeBcond_inv h
      rwa [byteOf_eq (b := b0) (by omega)] at this
    case h_4 hk0 hk1 hk2 =>
      split at h
      case isFalse => cases h
      case isTrue ha =>
        split at h
        case h_2 => cases h
        case h_1 b1 b2 r' =>
          have h1 := b1.isLt
          have h2 := b2.isLt
          have h14 : b0.toNat % 16 = 14 := by
            have : b0.toNat / 4 % 4 = 3 := by grind
            omega
          have := decode3_inv (w := b0.toNat + 256 * b1.toNat + 65536 * b2.toNat) (by omega) (by omega)
            (by rw [show (b0.toNat + 256 * b1.toNat + 65536 * b2.toNat) % 256 / 16 = b0.toNat / 16 by omega]; exact h)
          rwa [basic3, byteOf_eq (b := b0) (by omega), byteOf_eq (b := b1) (by omega),
            byteOf_eq (b := b2) (by omega)] at this
  case isFalse hl =>
    split at h
    case h_2 => cases h
    case h_1 b1 r' =>
      have h1 := b1.isLt
      have two {i : Instr} (hs : StandsAs (basic2 (b0.toNat + 256 * b1.toNat) ++ r') rest i) :
          StandsAs (b0 :: b1 :: r') rest i := by
        rwa [basic2, byteOf_eq (b := b0) (by omega), byteOf_eq (b := b1) (by omega)] at hs
      split at h
      · exact two (decodeGQ_inv (by omega) (by omega) (by omega) h)
      · exact two (decodeGG_inv (by omega) (by omega) h)

/-- Settles O1: `decodes_of_wf` is the round trip, format by format, and `decode_standsAs` its converse. -/
theorem decodeEncode : Obligations.DecodeEncode :=
  ⟨fun i rest h => decodes_of_wf i h rest, fun _ _ _ h => decode_standsAs h⟩

/-- Settles O2: each word runs through the decoder. -/
theorem decodeWords : Obligations.DecodeWords := by
  refine ⟨?_, ?_, ?_, ?_, ?_, ?_, ?_, ?_, ?_, ?_, ?_, ?_, ?_, ?_, ?_⟩ <;> rfl

/-- Settles O3: one case for each instruction, each the bound of its format. -/
theorem lengthBounds : Obligations.LengthBounds := by
  intro i
  change Laws.LengthBound.Statement i
  cases i
  exacts [
    Laws.LengthBound.bsr _, Laws.LengthBound.ret _, Laws.LengthBound.cxp _, Laws.LengthBound.rxp _,
    Laws.LengthBound.rett _, Laws.LengthBound.reti, Laws.LengthBound.save _, Laws.LengthBound.restore _,
    Laws.LengthBound.enter _ _, Laws.LengthBound.exit _, Laws.LengthBound.nop, Laws.LengthBound.wait,
    Laws.LengthBound.dia, Laws.LengthBound.flag, Laws.LengthBound.svc, Laws.LengthBound.bpt, Laws.LengthBound.beq _,
    Laws.LengthBound.bne _, Laws.LengthBound.bcs _, Laws.LengthBound.bcc _, Laws.LengthBound.bhi _,
    Laws.LengthBound.bls _, Laws.LengthBound.bgt _, Laws.LengthBound.ble _, Laws.LengthBound.bfs _,
    Laws.LengthBound.bfc _, Laws.LengthBound.blo _, Laws.LengthBound.bhs _, Laws.LengthBound.blt _,
    Laws.LengthBound.bge _, Laws.LengthBound.br _, Laws.LengthBound.addqi _ _ _, Laws.LengthBound.cmpqi _ _ _,
    Laws.LengthBound.spri _ _ _, Laws.LengthBound.acbi _ _ _ _, Laws.LengthBound.movqi _ _ _,
    Laws.LengthBound.lpri _ _ _, Laws.LengthBound.seqi _ _, Laws.LengthBound.snei _ _, Laws.LengthBound.scsi _ _,
    Laws.LengthBound.scci _ _, Laws.LengthBound.shii _ _, Laws.LengthBound.slsi _ _, Laws.LengthBound.sgti _ _,
    Laws.LengthBound.slei _ _, Laws.LengthBound.sfsi _ _, Laws.LengthBound.sfci _ _, Laws.LengthBound.sloi _ _,
    Laws.LengthBound.shsi _ _, Laws.LengthBound.slti _ _, Laws.LengthBound.sgei _ _, Laws.LengthBound.cxpd _,
    Laws.LengthBound.bicpsri _ _, Laws.LengthBound.jump _, Laws.LengthBound.bispsri _ _, Laws.LengthBound.adjspi _ _,
    Laws.LengthBound.jsr _, Laws.LengthBound.casei _ _, Laws.LengthBound.addi _ _ _, Laws.LengthBound.cmpi _ _ _,
    Laws.LengthBound.bici _ _ _, Laws.LengthBound.addci _ _ _, Laws.LengthBound.movi _ _ _,
    Laws.LengthBound.ori _ _ _, Laws.LengthBound.subi _ _ _, Laws.LengthBound.addr _ _, Laws.LengthBound.lxpd _ _ _,
    Laws.LengthBound.andi _ _ _, Laws.LengthBound.subci _ _ _, Laws.LengthBound.tbiti _ _ _,
    Laws.LengthBound.xori _ _ _, Laws.LengthBound.movsi _ _, Laws.LengthBound.movst _, Laws.LengthBound.cmpsi _ _,
    Laws.LengthBound.cmpst _, Laws.LengthBound.setcfg _, Laws.LengthBound.skpsi _ _, Laws.LengthBound.skpst _,
    Laws.LengthBound.roti _ _ _, Laws.LengthBound.ashi _ _ _, Laws.LengthBound.cbiti _ _ _,
    Laws.LengthBound.cbitii _ _ _, Laws.LengthBound.lshi _ _ _, Laws.LengthBound.sbiti _ _ _,
    Laws.LengthBound.sbitii _ _ _, Laws.LengthBound.negi _ _ _, Laws.LengthBound.noti _ _ _,
    Laws.LengthBound.subpi _ _ _, Laws.LengthBound.absi _ _ _, Laws.LengthBound.comi _ _ _,
    Laws.LengthBound.ibiti _ _ _, Laws.LengthBound.addpi _ _ _, Laws.LengthBound.exti _ _ _ _ _,
    Laws.LengthBound.indexi _ _ _ _, Laws.LengthBound.cvtp _ _ _, Laws.LengthBound.ffsi _ _ _,
    Laws.LengthBound.insi _ _ _ _ _, Laws.LengthBound.movsui _ _ _, Laws.LengthBound.movusi _ _ _,
    Laws.LengthBound.checki _ _ _ _, Laws.LengthBound.movmi _ _ _ _, Laws.LengthBound.cmpmi _ _ _ _,
    Laws.LengthBound.inssi _ _ _ _ _, Laws.LengthBound.extsi _ _ _ _ _, Laws.LengthBound.movxbw _ _,
    Laws.LengthBound.movzbw _ _, Laws.LengthBound.movzid _ _ _, Laws.LengthBound.movxid _ _ _,
    Laws.LengthBound.muli _ _ _, Laws.LengthBound.meii _ _ _, Laws.LengthBound.deii _ _ _,
    Laws.LengthBound.quoi _ _ _, Laws.LengthBound.remi _ _ _, Laws.LengthBound.modi _ _ _,
    Laws.LengthBound.divi _ _ _, Laws.LengthBound.rdval _, Laws.LengthBound.wrval _, Laws.LengthBound.lmr _ _,
    Laws.LengthBound.smr _ _, Laws.LengthBound.movif _ _ _ _, Laws.LengthBound.lfsr _, Laws.LengthBound.movlf _ _,
    Laws.LengthBound.movfl _ _, Laws.LengthBound.roundfi _ _ _ _, Laws.LengthBound.truncfi _ _ _ _,
    Laws.LengthBound.sfsr _, Laws.LengthBound.floorfi _ _ _ _, Laws.LengthBound.addf _ _ _,
    Laws.LengthBound.movf _ _ _, Laws.LengthBound.cmpf _ _ _, Laws.LengthBound.subf _ _ _,
    Laws.LengthBound.negf _ _ _, Laws.LengthBound.divf _ _ _, Laws.LengthBound.mulf _ _ _,
    Laws.LengthBound.absf _ _ _, Laws.LengthBound.fpuIllegal0011 _ _, Laws.LengthBound.fpuIllegal1001 _ _,
    Laws.LengthBound.custom16, Laws.LengthBound.custom36, Laws.LengthBound.customB6]

end Sys2Proof
end

section
/-! PROOFS. What every operation of an instruction keeps, on whatever way it leaves: the invariant, the privileged state
in User Mode (10_state.md R69), and that no Reset comes from nowhere. -/
namespace Sys2Proof.Machine

/-! ## Unprivileged updates of PSR -/

/-- Two PSR values with the same upper byte and the same reserved bits. -/
def UserFlags (v w : Word) : Prop := w &&& 0xFF18#16 = v &&& 0xFF18#16

theorem UserFlags.refl (w : Word) : UserFlags w w := rfl

theorem UserFlags.trans {u v w : Word} (h : UserFlags u v) (k : UserFlags v w) : UserFlags u w := Eq.trans k h

/-- Writing a flag of the lower byte leaves the upper byte and the reserved bits. -/
theorem UserFlags.putFlag (w : Word) {k : Flag} (b : Bool) (hk : flagBit k < 8) :
    UserFlags w (putFlag w k b) := by
  have hm : (1#16 <<< flagBit k) &&& 0xFF18#16 = 0#16 := by cases k <;> first | decide | exact absurd hk (by decide)
  have hn : ~~~(1#16 <<< flagBit k) &&& 0xFF18#16 = 0xFF18#16 := by
    cases k <;> first | decide | exact absurd hk (by decide)
  cases b
  · rw [UserFlags, Machine.putFlag, if_neg (by decide), BitVec.and_assoc, hn]
  · rw [UserFlags, Machine.putFlag, if_pos rfl, BitVec.and_or_distrib_right, hm, BitVec.or_zero]

/-- Further writes of flags of the lower byte. -/
theorem UserFlags.then {v w : Word} (h : UserFlags v w) {k : Flag} (b : Bool) (hk : flagBit k < 8) :
    UserFlags v (Machine.putFlag w k b) := h.trans (.putFlag w b hk)

theorem UserFlags.addFlags (n a b c : Nat) (w : Word) : UserFlags w (addFlags n a b c w) :=
  (UserFlags.putFlag w _ (by decide)).then _ (by decide)

theorem UserFlags.subFlags (n a b c : Nat) (w : Word) : UserFlags w (subFlags n a b c w) :=
  (UserFlags.putFlag w _ (by decide)).then _ (by decide)

theorem UserFlags.cmpFlags (n a b : Nat) (w : Word) : UserFlags w (cmpFlags n a b w) :=
  ((UserFlags.putFlag w _ (by decide)).then _ (by decide)).then _ (by decide)

/-- The flags of the upper byte are unchanged. -/
theorem UserFlags.flag {v w : Word} (h : UserFlags v w) {k : Flag} (hk : 8 ≤ flagBit k) :
    Machine.flag w k = Machine.flag v k := by
  have hb : (0xFF18#16).getLsbD (flagBit k) = true := by cases k <;> first | decide | exact absurd hk (by decide)
  have hw := congrArg (fun x : Word => x.getLsbD (flagBit k)) h
  simpa [Machine.flag, hb] using hw

/-- The reserved bits stay zero. -/
theorem UserFlags.reserved {v w : Word} (h : UserFlags v w) (hv : v &&& 0xF018#16 = 0#16) : w &&& 0xF018#16 = 0#16 := by
  have split (x : Word) : x &&& 0xF018#16 = x &&& 0xFF18#16 &&& 0xF018#16 := by
    rw [BitVec.and_assoc]
    rfl
  rw [split, h, ← split, hv]

/-! ## Two states of one instruction -/

/-- `t` comes after `s` in an instruction: the invariant is kept, in User Mode the privileged state too, and a Reset does
not come from nowhere. -/
structure KeepStep (s t : State) : Prop where
  inv : Inv s → Inv t
  priv : s.flag .u = true → SamePrivileged s t
  reset : s.cut.reset = none → t.cut.reset = none

theorem SamePrivileged.refl (s : State) : SamePrivileged s s := ⟨rfl, rfl, rfl, rfl, rfl, rfl, rfl, fun _ => rfl⟩

theorem SamePrivileged.trans {s t u : State} (h : SamePrivileged s t) (k : SamePrivileged t u) :
    SamePrivileged s u := by
  obtain ⟨hu, hs, hp, hi, hb, hc, hm, h0⟩ := h
  obtain ⟨ku, ks, kp, ki, kb, kc, km, k0⟩ := k
  exact ⟨ku.trans hu, ks.trans hs, kp.trans hp, ki.trans hi, kb.trans hb, kc.trans hc, km.trans hm,
    fun e => (k0 (hs.trans e)).trans (h0 e)⟩

theorem KeepStep.refl (s : State) : KeepStep s s := ⟨id, fun _ => .refl s, id⟩

theorem KeepStep.trans {s t u : State} (h : KeepStep s t) (k : KeepStep t u) : KeepStep s u :=
  ⟨fun i => k.inv (h.inv i), fun hu => (h.priv hu).trans (k.priv ((h.priv hu).1.trans hu)), fun r => k.reset (h.reset r)⟩

/-- An update that touches nothing privileged, no reserved bit and memory only through canonical writes. -/
theorem KeepStep.of_frame {s t : State} (hpsr : UserFlags s.psr t.psr)
    (hfsr : s.fsr &&& 0xFFFF0000#32 = 0#32 → t.fsr &&& 0xFFFF0000#32 = 0#32)
    (hmem : s.mem.wf = true → t.mem.wf = true) (hint : t.intbase = s.intbase) (hcfg : t.cfg = s.cfg)
    (hmmu : t.mmu = s.mmu) (hsp : s.flag .s = true → t.sp0 = s.sp0) (hcut : s.cut.reset = none → t.cut.reset = none) :
    KeepStep s t where
  inv := fun ⟨hm, hp, hf⟩ => ⟨hmem hm, hpsr.reserved hp, hfsr hf⟩
  priv := fun _ => ⟨hpsr.flag (by decide), hpsr.flag (by decide), hpsr.flag (by decide), hpsr.flag (by decide), hint,
    hcfg, hmmu, hsp⟩
  reset := hcut

/-- In Supervisor Mode the privileged state may change. -/
theorem KeepStep.of_supervisor {s t : State} (hu : s.flag .u = false) (hinv : Inv s → Inv t)
    (hcut : s.cut.reset = none → t.cut.reset = none) : KeepStep s t :=
  ⟨hinv, fun h => absurd (hu.symm.trans h) (by decide), hcut⟩

section Updates
variable {s0 s : State} (h : KeepStep s0 s)
include h

/-- An update of the state that leaves PSR, FSR, memory, the privileged registers and `cut` as they are. -/
theorem KeepStep.same {t : State} (hpsr : t.psr = s.psr) (hfsr : t.fsr = s.fsr) (hmem : t.mem = s.mem)
    (hint : t.intbase = s.intbase) (hcfg : t.cfg = s.cfg) (hmmu : t.mmu = s.mmu)
    (hsp : s.flag .s = true → t.sp0 = s.sp0) (hcut : t.cut = s.cut) : KeepStep s0 t :=
  h.trans (.of_frame (by rw [hpsr]; exact .refl _) (by rw [hfsr]; exact id) (by rw [hmem]; exact id) hint hcfg hmmu
    hsp (by rw [hcut]; exact id))

theorem KeepStep.psr {w : Word} (hw : UserFlags s.psr w) : KeepStep s0 { s with psr := w } :=
  h.trans (.of_frame hw id id rfl rfl rfl (fun _ => rfl) id)

theorem KeepStep.setFlag (k : Flag) (b : Bool) (hk : flagBit k < 8) : KeepStep s0 (s.setFlag k b) :=
  h.psr (.putFlag _ _ hk)

theorem KeepStep.fsr {v : Dword} (hv : s.fsr &&& 0xFFFF0000#32 = 0#32 → v &&& 0xFFFF0000#32 = 0#32) :
    KeepStep s0 { s with fsr := v } :=
  h.trans (.of_frame (.refl _) hv id rfl rfl rfl (fun _ => rfl) id)

theorem KeepStep.interlock (b : Bool) : KeepStep s0 { s with interlock := b } :=
  h.same rfl rfl rfl rfl rfl rfl (fun _ => rfl) rfl

theorem KeepStep.pc (a : AddrReg) : KeepStep s0 { s with pc := a } :=
  h.same rfl rfl rfl rfl rfl rfl (fun _ => rfl) rfl

theorem KeepStep.goto (a : Dword) : KeepStep s0 (s.goto a) := h.pc _

theorem KeepStep.freshNat {n x : Nat} {t : State} (e : s.freshNat n = (x, t)) : KeepStep s0 t := by
  obtain rfl : (s.freshNat n).2 = t := by rw [e]
  exact h.same rfl rfl rfl rfl rfl rfl (fun _ => rfl) rfl

theorem KeepStep.setReg (k : Fin 8) (v : Dword) : KeepStep s0 (s.setReg k v) :=
  h.same rfl rfl rfl rfl rfl rfl (fun _ => rfl) rfl

theorem KeepStep.setSp (a : AddrReg) : KeepStep s0 (s.setSp a) :=
  h.same (by simp) (by simp) (by simp) (by simp) (by simp) (by simp) (fun e => by simp [e]) (by simp)

theorem KeepStep.addSp (k : Int) : KeepStep s0 (s.addSp k) :=
  h.same (by simp) (by simp) (by simp) (by simp) (by simp) (by simp) (fun e => by simp [e]) (by simp)

theorem KeepStep.branch (k : Int) : KeepStep s0 (s.branch k) :=
  h.same (by simp) (by simp) (by simp) (by simp) (by simp) (by simp) (fun _ => by simp) (by simp)

theorem KeepStep.advance (i : Instr) : KeepStep s0 (s.advance i) := h.branch _

theorem KeepStep.popped : KeepStep s0 { s with cut := s.cut.popped } :=
  h.trans (.of_frame (.refl _) id id rfl rfl rfl (fun _ => rfl) id)

theorem KeepStep.wrote {m : Memory} (hm : s.mem.wf = true → m.wf = true) :
    KeepStep s0 { s with mem := m, cut := s.cut.wrote } :=
  h.trans (.of_frame (.refl _) id hm rfl rfl rfl (fun _ => rfl) (fun e => by simp [Cut.wrote, e]))

end Updates

/-! ## Operations -/

/-- Why an instruction that started in `s` may stop: with a fault, or cut short in a state it has come to. -/
def Cuts (s : State) : Stop → Prop
  | .abort c => KeepStep s c
  | .reset c => KeepStep s c ∧ c.cut.reset = some 0
  | _ => True

/-- `x`, part of an instruction that started in `s`, answers what `q` says or is cut short. -/
def Runs {α : Type} (s : State) (x : Res α) (q : α → Prop) : Prop :=
  match x with
  | .ok a => q a
  | .error e => Cuts s e

theorem Runs.bind {α β : Type} {s : State} {x : Res α} {f : α → Res β} {p : α → Prop} {q : β → Prop}
    (hx : Runs s x p) (hf : ∀ a, p a → Runs s (f a) q) : Runs s (x >>= f) q := by
  cases x with
  | ok a => exact hf a hx
  | error e => exact hx

/-- As `Runs.bind`, where the rest needs to know that the first part has answered. -/
theorem Runs.bind_ok {α β : Type} {s : State} {x : Res α} {f : α → Res β} {p : α → Prop} {q : β → Prop}
    (hx : Runs s x p) (hf : ∀ a, x = .ok a → p a → Runs s (f a) q) : Runs s (x >>= f) q := by
  cases x with
  | ok a => exact hf a rfl hx
  | error e => exact hx

theorem Runs.mono {α : Type} {s : State} {x : Res α} {p q : α → Prop} (hx : Runs s x p) (h : ∀ a, p a → q a) :
    Runs s x q := by
  cases x with
  | ok a => exact h a hx
  | error e => exact hx

/-- A part that answers any value or faults. -/
theorem Runs.of_check {α : Type} {s : State} {x : Res α} (h : ∀ e, x = .error e → (∃ f, e = .fault f) ∨ ∃ r, e = .refuse r) :
    Runs s x fun _ => True := by
  rcases x with (f | r | c | c) | a
  · trivial
  · trivial
  · obtain ⟨f, hf⟩ | ⟨r, hr⟩ := h _ rfl
    · cases hf
    · cases hr
  · obtain ⟨f, hf⟩ | ⟨r, hr⟩ := h _ rfl
    · cases hf
    · cases hr
  · trivial

theorem checkAccess_stops {a n : Nat} {e : Stop} (h : checkAccess a n = .error e) : ∃ f, e = .fault f := by
  unfold checkAccess faultWith at h
  split at h
  · cases h; exact ⟨_, rfl⟩
  · split at h
    · cases h; exact ⟨_, rfl⟩
    · cases h

theorem moduleAddr_runs (s0 : State) (m : Word) : Runs s0 (moduleAddr m) fun _ => True := by
  unfold moduleAddr
  split <;> trivial

theorem pairOf_runs (s0 : State) (k : Fin 8) : Runs s0 (pairOf k) fun _ => True := by
  unfold pairOf
  split <;> trivial

section Operations
variable {s0 s : State} (h : KeepStep s0 s)
include h

theorem memRead_runs (a : Dword) (n : Nat) : Runs s0 (s.memRead a n) fun _ => True := by
  unfold State.memRead
  split
  · exact h
  · exact Runs.bind (Runs.of_check fun e he => .inl (checkAccess_stops he)) fun _ _ => trivial

theorem deviceRead_runs (a : Nat) (b : Byte) : Runs s0 (s.deviceRead a b) fun _ => True := by
  unfold State.deviceRead
  split
  · exact h
  · trivial

theorem memWrite_runs (a : Dword) (n v : Nat) : Runs s0 (s.memWrite a n v) (KeepStep s0) := by
  unfold State.memWrite
  split
  · rename_i hr
    exact ⟨h, hr⟩
  · split
    · exact h
    · cases hc : checkAccess a.toNat n with
      | error e =>
        obtain ⟨f, rfl⟩ := checkAccess_stops hc
        trivial
      | ok u => exact h.wrote fun hw => Memory.wf_writeLE hw (checkAccess_ok.1 hc).1

theorem push_runs (n v : Nat) : Runs s0 (s.push n v) (KeepStep s0) := by
  unfold State.push
  split
  · trivial
  · exact memWrite_runs (h.setSp _) _ _ _

theorem pop_runs (n : Nat) : Runs s0 (s.pop n) fun p => KeepStep s0 p.2 := by
  unfold State.pop
  refine Runs.bind (memRead_runs h _ _) fun v _ => ?_
  simp only [Runs]
  exact h.popped.addSp n

theorem linkEntry_runs (k : Int) : Runs s0 (s.linkEntry k) fun _ => True :=
  (moduleAddr_runs s0 _).bind fun _ _ => (memRead_runs h _ _).bind fun _ _ => memRead_runs h _ _

theorem loadModule_runs (m : Word) : Runs s0 (s.loadModule m) (KeepStep s0) :=
  (moduleAddr_runs s0 _).bind fun _ _ => (memRead_runs h _ _).bind fun _ _ =>
    h.same rfl rfl rfl rfl rfl rfl (fun _ => rfl) rfl

theorem enterProcedure_runs (d : Nat) : Runs s0 (s.enterProcedure d) (KeepStep s0) :=
  (loadModule_runs h _).bind fun _ h1 => (moduleAddr_runs s0 _).bind fun _ _ => (memRead_runs h1 _ _).bind fun _ _ =>
    h1.goto _

theorem service_runs (v : Nat) (ra : AddrReg) : Runs s0 (s.service v ra) (KeepStep s0) :=
  (push_runs h _ _).bind fun _ h1 => (push_runs h1 _ _).bind fun _ h2 => (memRead_runs h2 _ _).bind fun _ _ =>
    enterProcedure_runs h2 _

theorem relative_runs (b : Dword) (d1 d2 : Disp) : Runs s0 (s.relative b d1 d2) fun _ => True :=
  (memRead_runs h _ _).bind fun _ _ => trivial

theorem modeAddr_runs (s' : State) (m : Mode) : Runs s0 (modeAddr s' s m) fun _ => True := by
  cases m with
  | frameRel d1 d2 | stackRel d1 d2 | staticRel d1 d2 => exact relative_runs h _ _ _
  | absolute d =>
    by_cases hd : d.value < 0
    · rw [modeAddr, if_pos hd]; trivial
    · rw [modeAddr, if_neg hd]; trivial
  | ext d1 d2 => exact (linkEntry_runs h _).bind fun _ _ => trivial
  | _ => trivial

theorem addrOf_runs (s' : State) (g : Gen) : Runs s0 (addrOf s' s g) fun _ => True := by
  cases g with
  | mode m => exact modeAddr_runs h s' m
  | scaled sc m x => exact (modeAddr_runs h s' m).bind fun _ _ => trivial
  | imm v => trivial

theorem locate_runs (b : Bank) (s' : State) (g : Gen) : Runs s0 (locate b s' s g) fun _ => True := by
  unfold locate
  split
  · trivial
  · exact (addrOf_runs h s' _).bind fun _ _ => trivial

theorem readLoc_runs (n : Nat) (l : Loc) : Runs s0 (s.readLoc n l) fun _ => True := by
  cases l with
  | gpr k => trivial
  | fpr k =>
    unfold State.readLoc
    dsimp only
    split
    · exact (pairOf_runs s0 k).bind fun _ _ => trivial
    · trivial
  | mem a => exact memRead_runs h _ _

theorem writeLoc_runs (n v : Nat) (l : Loc) : Runs s0 (s.writeLoc n v l) (KeepStep s0) := by
  have same {t : State} (e : t = { s with r := t.r, f := t.f }) : KeepStep s0 t := by
    rw [e]; exact h.same rfl rfl rfl rfl rfl rfl (fun _ => rfl) rfl
  cases l with
  | gpr k => exact same rfl
  | fpr k =>
    unfold State.writeLoc
    dsimp only
    split
    · exact (pairOf_runs s0 k).bind fun _ _ => same rfl
    · exact same rfl
  | mem a => exact memWrite_runs h _ _ _

theorem readPair_runs (n : Nat) (l : Loc) : Runs s0 (s.readPair n l) fun _ => True := by
  cases l with
  | gpr k => exact (pairOf_runs s0 k).bind fun _ _ => trivial
  | fpr k => trivial
  | mem a => exact (memRead_runs h _ _).bind fun _ _ => trivial

theorem readLow_runs (n : Nat) (l : Loc) : Runs s0 (s.readLow n l) fun _ => True := by
  cases l with
  | gpr k => exact (pairOf_runs s0 k).bind fun _ _ => trivial
  | fpr k => trivial
  | mem a => exact memRead_runs h _ _

theorem writePair_runs (n lo hi : Nat) (l : Loc) : Runs s0 (s.writePair n lo hi l) (KeepStep s0) := by
  cases l with
  | gpr k =>
    refine (pairOf_runs s0 k).bind fun ⟨e, o⟩ _ => ?_
    change KeepStep s0 ((s.setRegLow e n lo).setRegLow o n hi)
    exact h.same rfl rfl rfl rfl rfl rfl (fun _ => rfl) rfl
  | fpr k => trivial
  | mem a => exact memWrite_runs h _ _ _

theorem readOp_runs (b : Bank) (n : Nat) (s' : State) (g : Gen) :
    Runs s0 (readOp b n s' s g) fun p => KeepStep s0 p.2 := by
  have located : Runs s0 (locate b s' s g >>= fun l => s.readLoc n l >>= fun v => Except.ok (v, s))
      fun p => KeepStep s0 p.2 :=
    (locate_runs h b s' g).bind fun _ _ => (readLoc_runs h _ _).bind fun _ _ => h
  cases g with
  | imm v => exact h
  | scaled sc m x => exact located
  | mode m =>
    cases m with
    | tos => exact pop_runs h n
    | _ => exact located

theorem locateWrite_runs (b : Bank) (n : Nat) (s' : State) (g : Gen) :
    Runs s0 (locateWrite b n s' s g) fun p => KeepStep s0 p.2 := by
  unfold locateWrite
  split
  · split
    · trivial
    · exact h.setSp _
  · exact (locate_runs h b s' _).bind fun _ _ => h

theorem writeOp_runs (b : Bank) (n v : Nat) (s' : State) (g : Gen) :
    Runs s0 (writeOp b n v s' s g) (KeepStep s0) :=
  (locateWrite_runs h b n s' g).bind fun ⟨_, _⟩ h1 => writeLoc_runs h1 _ _ _

theorem deliver_runs {w : Word} (hw : UserFlags s.psr w) (n v : Nat) (l : Loc) :
    Runs s0 (s.deliver w n v l) (KeepStep s0) := writeLoc_runs (h.psr hw) _ _ _

end Operations

end Sys2Proof.Machine
end

section
/-! PROOFS. What every instruction keeps, and with it every step: the invariant (10_state.md R41, R56, 20_memory.md R80)
and, in User Mode, the privileged state (R69, R541). -/
namespace Sys2Proof.Machine

/-! ## How an instruction ends -/

/-- How an instruction that started in `s` completes: it keeps the state, takes a trap, or, in Supervisor Mode, the Abort
trap that RDVAL and WRVAL take themselves. -/
def Done (s t : State) : Prop :=
  KeepStep s t ∨
    (∃ (k : TrapKind) (v : Dword), (s.fsr &&& 0xFFFF0000#32 = 0#32 → v &&& 0xFFFF0000#32 = 0#32) ∧
      ({ s with fsr := v } : State).trap k = .ok t) ∨
    (s.flag .u = false ∧ s.abort = .ok t)

theorem Runs.done {s : State} {x : Res State} (h : Runs s x (KeepStep s)) : Runs s x (Done s) := h.mono fun _ => .inl

/-- An entry sequence is never cut short itself (R526; log 35). -/
theorem entry_runs {s : State} {x : Res State} {q : State → Prop} (h : ∀ t, entry x = .ok t → q t) :
    Runs s (entry x) q := by
  obtain hs := entry_settled x
  generalize entry x = y at h hs
  rcases y with (f | r | c | c) | t
  · trivial
  · trivial
  · exact absurd rfl (hs c).1
  · exact absurd rfl (hs c).2
  · exact h t rfl

theorem fpTrap_runs {s : State} {v : Dword} (hv : s.fsr &&& 0xFFFF0000#32 = 0#32 → v &&& 0xFFFF0000#32 = 0#32) :
    Runs s (s.fpTrap v) (Done s) := entry_runs fun _ h => .inr (.inl ⟨.fpu, v, hv, h⟩)

theorem trap_runs (s : State) (k : TrapKind) : Runs s (s.trap k) (Done s) :=
  entry_runs fun _ h => .inr (.inl ⟨k, s.fsr, id, h⟩)

theorem abort_runs {s : State} (hu : s.flag .u = false) : Runs s s.abort (Done s) :=
  entry_runs fun _ h => .inr (.inr ⟨hu, h⟩)

/-! ## Shapes -/

section Shapes
variable (s : State) (i : IntLen) (ins : Instr) (src dst : Gen)

/-- A read operand keeps the state and PSR itself. -/
theorem readOp_runs_psr {s0 s : State} (h : KeepStep s0 s) (b : Bank) (n : Nat) (s' : State) (g : Gen) :
    Runs s0 (readOp b n s' s g) fun p => KeepStep s0 p.2 ∧ p.2.psr = s.psr := by
  have hr := readOp_runs h b n s' g
  cases hx : readOp b n s' s g with
  | error e => rwa [hx] at hr
  | ok p =>
    rw [hx] at hr
    exact ⟨hr, (readOp_frame hx).2.2.2.1⟩

/-- Room for a write operand is made with the state and PSR itself kept. -/
theorem locateWrite_runs_psr {s0 s : State} (h : KeepStep s0 s) (b : Bank) (n : Nat) (s' : State) (g : Gen) :
    Runs s0 (locateWrite b n s' s g) fun p => KeepStep s0 p.2 ∧ p.2.psr = s.psr := by
  have hr := locateWrite_runs h b n s' g
  cases hx : locateWrite b n s' s g with
  | error e => rwa [hx] at hr
  | ok p =>
    rw [hx] at hr
    exact ⟨hr, (locateWrite_frame hx).2.2.2.1⟩

theorem moveShape_runs (bs bd : Bank) (ns nd : Nat) {f : Nat → Word → Nat × Word}
    (hf : ∀ a w, UserFlags w (f a w).2) : Runs s (moveShape bs bd ns nd ins src dst f s) (KeepStep s) :=
  (readOp_runs_psr (.refl s) bs ns s src).bind fun ⟨a, _⟩ ⟨h1, e1⟩ =>
    (locateWrite_runs_psr h1 bd nd s dst).bind fun ⟨_, _⟩ ⟨h2, e2⟩ =>
      (deliver_runs h2 (by rw [e2, e1]; exact hf a s.psr) _ _ _).bind fun _ h3 => h3.advance ins

theorem rmwShape_runs (ns nd : Nat) {f : Nat → Nat → Word → Nat × Word} (hf : ∀ a d w, UserFlags w (f a d w).2) :
    Runs s (rmwShape ns nd ins src dst f s) (KeepStep s) :=
  (readOp_runs_psr (.refl s) .int ns s src).bind fun ⟨a, _⟩ ⟨h1, e1⟩ =>
    (locate_runs h1 .int s dst).bind fun _ _ => (readLoc_runs h1 _ _).bind fun d _ =>
      (deliver_runs h1 (by rw [e1]; exact hf a d s.psr) _ _ _).bind fun _ h2 => h2.advance ins

theorem compareShape_runs (n : Nat) {f : Nat → Nat → Word → Word} (hf : ∀ a b w, UserFlags w (f a b w)) :
    Runs s (compareShape n ins src dst f s) (KeepStep s) :=
  (readOp_runs_psr (.refl s) .int n s src).bind fun ⟨a, _⟩ ⟨h1, e1⟩ =>
    (readOp_runs_psr h1 .int n s dst).bind fun ⟨b, _⟩ ⟨h2, e2⟩ =>
      (h2.psr (by rw [e2, e1]; exact hf a b s.psr)).advance ins

/-- An operand read that changes nothing but the selected stack pointer, then an update. -/
theorem readThen_runs (b : Bank) (n : Nat) {f : Nat → State → State}
    (hf : ∀ a t, KeepStep s t → KeepStep s (f a t)) :
    Runs s (readOp b n s s src >>= fun p => match p with | (a, t) => Except.ok (f a t)) (KeepStep s) :=
  (readOp_runs (.refl s) b n s src).bind fun ⟨a, t⟩ h => hf a t h

/-- A computed value stored, then control passed on. -/
theorem storeThen_runs (b : Bank) (n v : Nat) :
    Runs s (writeOp b n v s s dst >>= fun t => Except.ok (t.advance ins)) (KeepStep s) :=
  (writeOp_runs (.refl s) b n v s dst).bind fun _ h => h.advance ins

theorem byteAt_runs (ea : Dword) (k : Int) : Runs s (byteAt ea k) fun _ => True := by
  unfold byteAt
  dsimp only
  split <;> trivial

theorem locateBit_runs (l : Loc) (o : Int) : Runs s (locateBit l o) fun _ => True := by
  unfold locateBit
  split
  · exact (byteAt_runs s _ _).bind fun _ _ => trivial
  · split <;> trivial

theorem locateField_runs (l : Loc) (o : Int) (len : Nat) : Runs s (locateField l o len) fun _ => True := by
  unfold locateField
  split
  · refine (byteAt_runs s _ _).bind fun _ _ => ?_
    split <;> trivial
  · split <;> trivial

theorem bitShape_runs (f : Nat → Nat → Nat) : Runs s (bitShape i src dst f s) fun p => KeepStep s p.2 :=
  (readOp_runs (.refl s) .int i.bytes s src).bind fun ⟨o, _⟩ h1 => (locate_runs h1 .int s dst).bind fun l _ =>
    (locateBit_runs s l (sext i.bits o)).bind fun ⟨_, _, _⟩ _ => (readLoc_runs h1 _ _).bind fun _ _ =>
      (deliver_runs h1 (.putFlag _ _ (by decide)) _ _ _).bind fun _ h2 => h2

end Shapes

end Sys2Proof.Machine
end

section
/-! PROOFS. What every instruction keeps, body by body (10_state.md R69, 60_exceptions.md R541). -/
namespace Sys2Proof.Machine

section Bodies
variable (s : State) (i : IntLen) (ins : Instr) (src dst : Gen)

/-! ## Bits and bit fields -/

theorem tbit_runs : Runs s (readOp .int i.bytes s s src >>= fun p => match p with
    | (o, s1) => locate .int s s1 dst >>= fun l => locateBit l (sext i.bits o) >>= fun q => match q with
      | (c, n, b) => s1.readLoc n c >>= fun v => Except.ok ((s1.setFlag .f (bitOf v b)).advance ins)) (KeepStep s) :=
  (readOp_runs (.refl s) .int _ s src).bind fun ⟨_, _⟩ h1 => (locate_runs h1 .int s dst).bind fun l _ =>
    (locateBit_runs s l _).bind fun ⟨_, _, _⟩ _ => (readLoc_runs h1 _ _).bind fun _ _ =>
      (h1.setFlag .f _ (by decide)).advance ins

theorem ffs_runs : Runs s (readOp .int i.bytes s s src >>= fun p => match p with
    | (v, s1) => locate .int s s1 dst >>= fun l => s1.readLoc 1 l >>= fun o =>
      if o < i.bits then
        match findSet v o (i.bits - o) with
        | some k => s1.deliver (putFlag s1.psr .f false) 1 k l >>= fun s2 => Except.ok (s2.advance ins)
        | none => s1.deliver (putFlag s1.psr .f true) 1 0 l >>= fun s2 => Except.ok (s2.advance ins)
      else
        match s1.freshNat 9 with
        | (x, s2) => s2.deliver (putFlag s2.psr .f (decide (256 ≤ x))) 1 (x % 256) l >>= fun s3 =>
          Except.ok (s3.advance ins)) (KeepStep s) := by
  refine (readOp_runs (.refl s) .int _ s src).bind fun ⟨v, s1⟩ h1 => (locate_runs h1 .int s dst).bind fun l _ =>
    (readLoc_runs h1 _ _).bind fun o _ => ?_
  have found {s2 : State} (h2 : KeepStep s s2) (b : Bool) (k : Nat) :
      Runs s (s2.deliver (putFlag s2.psr .f b) 1 k l >>= fun t => Except.ok (t.advance ins)) (KeepStep s) :=
    (deliver_runs h2 (.putFlag _ _ (by decide)) _ _ _).bind fun _ h3 => h3.advance ins
  dsimp only
  split
  · split
    · exact found h1 _ _
    · exact found h1 _ _
  · exact found (h1.freshNat (n := 9) rfl) _ _

theorem readField_runs {s0 s : State} (h : KeepStep s0 s) (l : Loc) (o : Int) (len : Nat) :
    Runs s0 (s.readField l o len) fun _ => True :=
  (locateField_runs s0 l o len).bind fun ⟨_, _⟩ _ => (readLoc_runs h _ _).bind fun _ _ => trivial

theorem writeField_runs {s0 s : State} (h : KeepStep s0 s) (l : Loc) (o : Int) (len v : Nat) :
    Runs s0 (s.writeField l o len v) (KeepStep s0) :=
  (locateField_runs s0 l o len).bind fun ⟨_, _⟩ _ => (readLoc_runs h _ _).bind fun _ _ => writeLoc_runs h _ _ _

theorem extractShape_runs (o : Int) (len : Nat) : Runs s (extractShape i ins src dst o len s) (KeepStep s) :=
  (locate_runs (.refl s) .int s src).bind fun l _ => (readField_runs (.refl s) l o len).bind fun _ _ =>
    storeThen_runs s ins dst .int i.bytes _

theorem insertShape_runs (o : Int) (len : Nat) : Runs s (insertShape i ins src dst o len s) (KeepStep s) :=
  (readOp_runs (.refl s) .int i.bytes s src).bind fun ⟨v, _⟩ h1 => (locate_runs h1 .int s dst).bind fun l _ =>
    (writeField_runs h1 l o len v).bind fun _ h2 => h2.advance ins

theorem fieldLength_runs (d : Int) : Runs s (fieldLength d) fun _ => True := by
  unfold fieldLength
  split <;> trivial

/-! ## Blocks and arrays -/

theorem blockCount_runs (n : Nat) (d : Int) : Runs s (blockCount n d) fun _ => True := by
  unfold blockCount
  split <;> trivial

theorem moveBlocks_runs {s0 : State} (n : Nat) (free : Bool) (k : Nat) {s : State} (h : KeepStep s0 s)
    (a b : Dword) : Runs s0 (moveBlocks n free k a b s) (KeepStep s0) := by
  induction k generalizing s a b with
  | zero => exact h
  | succ k ih =>
    refine (memRead_runs h a n).bind fun v _ => ?_
    cases free
    · exact (memWrite_runs h b n _).bind fun _ h2 => ih h2 _ _
    · exact (memWrite_runs (h.freshNat (n := 8 * n) rfl) b n _).bind fun _ h2 => ih h2 _ _

theorem compareBlocks_runs {s0 s : State} (h : KeepStep s0 s) (n k : Nat) (a b : Dword) :
    Runs s0 (compareBlocks s n k a b) fun w => UserFlags s.psr w := by
  induction k generalizing a b with
  | zero => exact UserFlags.refl s.psr
  | succ k ih =>
    refine (memRead_runs h a n).bind fun x _ => (memRead_runs h b n).bind fun y _ => ?_
    split
    · exact ih _ _
    · exact UserFlags.cmpFlags _ x y s.psr

theorem movm_runs (k : Nat) (f : Dword → Dword → Bool) : Runs s (addrOf s s src >>= fun a => addrOf s s dst >>= fun b =>
    moveBlocks i.bytes (f a b) k a b s >>= fun s1 => Except.ok (s1.advance ins)) (KeepStep s) :=
  (addrOf_runs (.refl s) s src).bind fun _ _ => (addrOf_runs (.refl s) s dst).bind fun _ _ =>
    (moveBlocks_runs _ _ k (.refl s) _ _).bind fun _ h => h.advance ins

theorem cmpm_runs (k : Nat) : Runs s (addrOf s s src >>= fun a => addrOf s s dst >>= fun b =>
    compareBlocks { s with psr := cmpFlags 8 0 0 s.psr } i.bytes k a b >>= fun w =>
      Except.ok (({ s with psr := w } : State).advance ins)) (KeepStep s) :=
  (addrOf_runs (.refl s) s src).bind fun _ _ => (addrOf_runs (.refl s) s dst).bind fun _ _ =>
    (compareBlocks_runs ((KeepStep.refl s).psr (.cmpFlags 8 0 0 s.psr)) _ k _ _).bind fun _ hw =>
      ((KeepStep.refl s).psr ((UserFlags.cmpFlags 8 0 0 s.psr).trans hw)).advance ins

theorem check_runs (r : Fin 8) : Runs s (do
    let a ← addrOf s s src
    let u ← s.memRead a i.bytes
    let l ← s.memRead (a + BitVec.ofNat 32 i.bytes) i.bytes
    let (v, s1) ← readOp .int i.bytes s s dst
    let x := sext i.bits v
    if x > sext i.bits u ∨ x < sext i.bits l then
      let (d, s2) := s1.freshNat 32
      .ok (((s2.setReg r (BitVec.ofNat 32 d)).setFlag .f true).advance ins)
    else
      .ok (((s1.setReg r (BitVec.ofInt 32 (x - sext i.bits l))).setFlag .f false).advance ins)) (KeepStep s) := by
  refine (addrOf_runs (.refl s) s src).bind fun _ _ => (memRead_runs (.refl s) _ _).bind fun _ _ =>
    (memRead_runs (.refl s) _ _).bind fun _ _ => (readOp_runs (.refl s) .int _ s dst).bind fun ⟨_, _⟩ h1 => ?_
  dsimp only
  split
  · exact (((h1.freshNat (n := 32) rfl).setReg _ _).setFlag .f _ (by decide)).advance ins
  · exact ((h1.setReg _ _).setFlag .f _ (by decide)).advance ins

theorem index_runs (r : Fin 8) (f : Nat → Nat → Dword) : Runs s (do
    let (l, s1) ← readOp .int i.bytes s s src
    let (x, s2) ← readOp .int i.bytes s s1 dst
    .ok ((s2.setReg r (f l x)).advance ins)) (KeepStep s) :=
  (readOp_runs (.refl s) .int _ s src).bind fun ⟨_, _⟩ h1 => (readOp_runs h1 .int _ s dst).bind fun ⟨_, _⟩ h2 =>
    (h2.setReg _ _).advance ins

/-! ## Control -/

theorem branchIf_keeps (k : Cond) (d : Disp) : KeepStep s (branchIf ins k d s) := by
  unfold branchIf
  split
  · exact (KeepStep.refl s).branch _
  · exact (KeepStep.refl s).advance _

theorem acb_runs (q : BitVec 4) (d : Disp) : Runs s (do
    let l ← locate .int s s dst
    let v ← s.readLoc i.bytes l
    let x := trunc i.bits ((v : Int) + q.toInt)
    let s1 ← s.writeLoc i.bytes x l
    .ok (if x = 0 then s1.advance ins else s1.branch d.value)) (KeepStep s) := by
  refine (locate_runs (.refl s) .int s dst).bind fun l _ => (readLoc_runs (.refl s) _ _).bind fun v _ =>
    (writeLoc_runs (.refl s) _ _ _).bind fun s1 h1 => ?_
  simp only [Runs]
  split
  · exact h1.advance _
  · exact h1.branch _

theorem sum24_keeps {s0 s : State} (h : KeepStep s0 s) (v : AddrReg) (k : Int) : KeepStep s0 (s.sum24 v k).2 :=
  h.same (by simp) (by simp) (by simp) (by simp) (by simp) (by simp) (fun _ => by simp) (by simp)

/-- The push of a return address, once that address is known. The definition is unfolded before it is applied: applied,
the kernel would compute the address. -/
theorem State.pushReturn_of_nextPc {s t : State} {a : AddrReg} {ins : Instr} (hp : s.nextPc ins = (a, t)) :
    s.pushReturn ins = t.push 4 a.toNat := by
  have h : State.pushReturn = State.pushReturn := rfl
  conv_lhs at h => delta State.pushReturn
  rw [← h]
  beta_reduce
  rw [hp]

/-- The push of a return address, named apart so that nothing computes the address. -/
theorem exists_pushReturn_runs {s0 s : State} (h : KeepStep s0 s) :
    ∃ x : Res State, s.pushReturn ins = x ∧ Runs s0 x (KeepStep s0) := by
  have hn : KeepStep s0 (s.nextPc ins).2 := sum24_keeps h s.pc (instrLength ins : Int)
  cases hp : s.nextPc ins with
  | mk a t =>
    rw [hp] at hn
    exact ⟨_, State.pushReturn_of_nextPc hp, push_runs hn _ _⟩

theorem jsr_runs : Runs s (addrOf s s dst >>= fun a => s.pushReturn ins >>= fun s1 => Except.ok (s1.goto a))
    (KeepStep s) := by
  have hp := exists_pushReturn_runs ins (KeepStep.refl s)
  generalize s.pushReturn ins = x at hp ⊢
  obtain ⟨_, rfl, hp⟩ := hp
  exact (addrOf_runs (.refl s) s dst).bind fun _ _ => hp.bind fun _ h => h.goto _

theorem exists_bsr_runs (d : Disp) : ∃ y : Res State,
    (s.pushReturn ins >>= fun s1 => Except.ok (s1.branch d.value)) = y ∧ Runs s y (KeepStep s) := by
  have hp := exists_pushReturn_runs ins (KeepStep.refl s)
  generalize s.pushReturn ins = x at hp ⊢
  obtain ⟨_, rfl, hp⟩ := hp
  exact ⟨_, rfl, hp.bind fun _ h => h.branch _⟩

theorem ret_runs (d : Disp) : Runs s (s.pop 4 >>= fun p => match p with
    | (ra, s1) => Except.ok ((s1.addSp d.value).goto (BitVec.ofNat 32 ra))) (KeepStep s) := by
  refine (pop_runs (.refl s) 4).bind fun ⟨_, _⟩ h => ?_
  simp only [Runs]
  exact (h.addSp _).goto _

/-- A call of the procedure whose descriptor `x` answers, named apart like the push in it. -/
theorem exists_callExternal_runs {x : Res Nat} (hx : Runs s x fun _ => True) :
    ∃ y : Res State, (x >>= fun d => callExternal ins d s) = y ∧ Runs s y (KeepStep s) := by
  cases x with
  | error e => exact ⟨_, rfl, hx⟩
  | ok d =>
    refine ⟨_, rfl, (push_runs ((KeepStep.refl s).freshNat (n := 16) rfl) _ _).bind fun _ h2 =>
      (push_runs h2 _ _).bind fun s3 h3 => ?_⟩
    have hp := exists_pushReturn_runs ins h3
    generalize s3.pushReturn ins = x at hp ⊢
    obtain ⟨_, rfl, hp⟩ := hp
    exact hp.bind fun _ h4 => enterProcedure_runs h4 d

theorem rxp_runs (d : Disp) : Runs s (do
    let (pc, s1) ← s.pop 4
    let (m, s2) ← s1.pop 2
    let s3 ← (s2.addSp 2).loadModule (BitVec.ofNat 16 m)
    .ok ((s3.addSp d.value).goto (BitVec.ofNat 32 pc))) (KeepStep s) := by
  refine (pop_runs (.refl s) 4).bind fun ⟨_, _⟩ h1 => (pop_runs h1 2).bind fun ⟨_, _⟩ h2 =>
    (loadModule_runs (h2.addSp 2) _).bind fun _ h3 => ?_
  simp only [Runs]
  exact (h3.addSp _).goto _

/-- The PSR that a return pops has its reserved bits clear (R41). -/
theorem psrMask_reserved (w : Word) : w &&& psrMask &&& 0xF018#16 = 0#16 := by
  rw [BitVec.and_assoc, show psrMask &&& 0xF018#16 = 0#16 by decide, BitVec.and_zero]

/-- In Supervisor Mode PSR may be loaded with any implemented bits. -/
theorem KeepStep.load_psr {s0 s : State} (h : KeepStep s0 s) (hu : s0.flag .u = false) (hs : s.psr = s0.psr) (w : Word) :
    KeepStep s0 { s with psr := w &&& psrMask } :=
  h.trans (.of_supervisor (by rw [State.flag, hs]; exact hu) (fun ⟨hm, _, hf⟩ => ⟨hm, psrMask_reserved w, hf⟩) id)

/-- A pop keeps PSR itself. -/
theorem pop_runs_psr {s0 s : State} (h : KeepStep s0 s) (n : Nat) :
    Runs s0 (s.pop n) fun p => KeepStep s0 p.2 ∧ p.2.psr = s.psr := by
  have hr := pop_runs h n
  cases hx : s.pop n with
  | error e => rwa [hx] at hr
  | ok p =>
    rw [hx] at hr
    exact ⟨hr, by rw [(State.pop_ok hx).2.2]; simp⟩

theorem popFrame_runs (hu : s.flag .u = false) : Runs s s.popFrame (KeepStep s) := by
  refine (pop_runs_psr (.refl s) 4).bind fun ⟨pc, s1⟩ ⟨h1, e1⟩ => (pop_runs_psr h1 2).bind fun ⟨m, s2⟩ ⟨h2, e2⟩ =>
    (pop_runs_psr h2 2).bind fun ⟨w, s3⟩ ⟨h3, e3⟩ => ?_
  exact loadModule_runs ((h3.pc (low24 pc)).load_psr hu (e3.trans (e2.trans e1)) (BitVec.ofNat 16 w)) _

theorem cascadeAddress_runs {s0 s : State} (h : KeepStep s0 s) (b : Byte) :
    Runs s0 (s.cascadeAddress b) fun _ => True := by
  unfold State.cascadeAddress
  split
  · trivial
  · refine (memRead_runs h _ _).bind fun a _ => ?_
    split <;> trivial

theorem endOfInterrupt_runs : Runs s s.endOfInterrupt fun t => t = s := by
  refine (deviceRead_runs (.refl s) _ _).bind fun b _ => ?_
  split
  · exact rfl
  · exact (cascadeAddress_runs (.refl s) b).bind fun _ _ => (deviceRead_runs (.refl s) _ _).bind fun _ _ => rfl

theorem rett_runs (d : Disp) :
    Runs s (if s.flag .u then s.trap .ill else s.popFrame >>= fun s1 => Except.ok (s1.addSp d.value)) (Done s) := by
  split
  · exact trap_runs s _
  · rename_i hu
    exact Runs.done ((popFrame_runs s (Bool.eq_false_iff.2 hu)).bind fun _ h => h.addSp _)

theorem reti_runs : Runs s (if s.flag .u then s.trap .ill else s.endOfInterrupt >>= fun s1 => s1.popFrame) (Done s) := by
  split
  · exact trap_runs s _
  · rename_i hu
    refine Runs.done ((endOfInterrupt_runs s).bind fun t ht => ?_)
    rw [ht]
    exact popFrame_runs s (Bool.eq_false_iff.2 hu)

end Bodies

end Sys2Proof.Machine
end

section
/-! PROOFS. What every instruction keeps, continued: arithmetic, floating point, services and strings. -/
namespace Sys2Proof.Machine

/-! ## FSR -/

/-- The reserved bits of FSR are zero (R56). -/
def FsrReserved (v : Dword) : Prop := v &&& 0xFFFF0000#32 = 0#32

/-- The bits that an operation sets in FSR are implemented ones. -/
theorem FsrReserved.or {v w : Dword} (hv : FsrReserved v) (hw : FsrReserved w) : FsrReserved (v ||| w) := by
  rw [FsrReserved, BitVec.and_or_distrib_right, hv, hw, BitVec.zero_or]

theorem FsrReserved.and {v : Dword} (w : Dword) (hv : FsrReserved v) : FsrReserved (v &&& w) := by
  rw [FsrReserved, BitVec.and_assoc, BitVec.and_comm w, ← BitVec.and_assoc, hv, BitVec.zero_and]

theorem FsrReserved.withTt {v : Dword} (hv : FsrReserved v) (tt : Nat) : FsrReserved (fsrWithTt v tt) := by
  refine (hv.and _).or ?_
  have ht : ∀ k : Fin 8, FsrReserved (BitVec.ofNat 32 k.val) := by unfold FsrReserved; decide
  exact ht ⟨tt % 8, Nat.mod_lt _ (by decide)⟩

theorem FsrReserved.setUf {v : Dword} (hv : FsrReserved v) : FsrReserved (fsrSetUf v) :=
  hv.or (by unfold FsrReserved; decide)

theorem FsrReserved.setIf {v : Dword} (hv : FsrReserved v) : FsrReserved (fsrSetIf v) :=
  hv.or (by unfold FsrReserved; decide)

theorem FsrReserved.mask (v : Dword) : FsrReserved (v &&& fsrMask) := by
  rw [FsrReserved, BitVec.and_assoc, show fsrMask &&& 0xFFFF0000#32 = 0#32 by decide, BitVec.and_zero]

/-- An operation leaves the reserved bits of FSR zero. -/
def KeepsFsr (v : Dword) (out : FpOut) : Prop := FsrReserved v → FsrReserved out.fsr

theorem fpExact_fsr (v : Dword) (r : Nat) : KeepsFsr v (fpExact v r) := fun h => h.withTt 0

theorem fpTrapWith_fsr (v : Dword) (tt : Nat) : KeepsFsr v (fpTrapWith v tt) := fun h => h.withTt tt

theorem fpInexact_fsr (v : Dword) (r : Nat) : KeepsFsr v (fpInexact v r) := fun h => h.setIf.withTt 6

/-- What a rounded magnitude delivers, out of range, exact or not, leaves the reserved bits. -/
theorem fpRounded_fsr (v : Dword) (b x : Int) (r p : Nat) :
    KeepsFsr v (if b < x then fpTrapWith v 2 else if r = 0 then fpExact v p else fpInexact v p) := by
  split
  · exact fpTrapWith_fsr v 2
  · split
    · exact fpExact_fsr v p
    · exact fpInexact_fsr v p

theorem fpResult_fsr (f : FpLen) (neg : Bool) (n d : Nat) (e : Int) (v : Dword) :
    KeepsFsr v (fpResult f neg n d e v) := by
  unfold fpResult
  dsimp only
  generalize scaleFrac n d _ = ab
  split
  · exact fun h => h.setUf.withTt 1
  · exact fpRounded_fsr v _ _ _ _

theorem fpToInt_fsr (i : IntLen) (n : Int) (b : Bool) (v : Dword) : KeepsFsr v (fpToInt i n b v) := by
  unfold fpToInt
  split
  · exact fpTrapWith_fsr v 2
  · split
    · exact fpInexact_fsr v _
    · exact fpExact_fsr v _

theorem fpConvert_fsr (rm : Nat) (i : IntLen) (x : FpVal) (v : Dword) : KeepsFsr v (fpConvert rm i x v) := by
  cases x with
  | reserved => exact fpTrapWith_fsr v 5
  | zero b => exact fpExact_fsr v 0
  | num b m e => exact fpToInt_fsr i _ _ v

theorem fpDeliver_fsr (f : FpLen) (x k : Int) (v : Dword) : KeepsFsr v (fpDeliver f x k v) := by
  unfold fpDeliver
  split
  · exact fpExact_fsr v _
  · exact fpResult_fsr f _ _ _ _ v

theorem fpAdd_fsr (f : FpLen) (a b : FpVal) (v : Dword) : KeepsFsr v (fpAdd f a b v) := by
  unfold fpAdd
  split
  · exact fpTrapWith_fsr v 5
  · exact fpTrapWith_fsr v 5
  · exact fpExact_fsr v _
  all_goals exact fpDeliver_fsr f _ _ v

theorem fpMul_fsr (f : FpLen) (a b : FpVal) (v : Dword) : KeepsFsr v (fpMul f a b v) := by
  unfold fpMul
  split
  · exact fpTrapWith_fsr v 5
  · exact fpTrapWith_fsr v 5
  · exact fpExact_fsr v _
  · exact fpExact_fsr v _
  · exact fpExact_fsr v _
  · exact fpResult_fsr f _ _ _ _ v

theorem fpDiv_fsr (f : FpLen) (a b : FpVal) (v : Dword) : KeepsFsr v (fpDiv f a b v) := by
  unfold fpDiv
  split
  · exact fpTrapWith_fsr v 5
  · exact fpTrapWith_fsr v 5
  · exact fpTrapWith_fsr v 5
  · exact fpTrapWith_fsr v 3
  · exact fpExact_fsr v _
  · exact fpResult_fsr f _ _ _ _ v

theorem fpShorten_fsr (b : Bool) (x : FpVal) (v : Dword) : KeepsFsr v (fpShorten b x v) := by
  cases x with
  | reserved => exact fpTrapWith_fsr v 5
  | zero b => exact fpExact_fsr v _
  | num b m e => exact fpResult_fsr .single _ _ _ _ v

theorem fpLengthen_fsr (x : FpVal) (v : Dword) : KeepsFsr v (fpLengthen x v) := by
  cases x with
  | reserved => exact fpTrapWith_fsr v 5
  | zero b => exact fpExact_fsr v _
  | num b m e => exact fpResult_fsr .double _ _ _ _ v

section Bodies
variable (s : State) (i : IntLen) (ins : Instr) (src dst : Gen)

/-! ## Floating point -/

theorem fpGuard_runs {x : Res State} (h : Runs s x (Done s)) : Runs s (fpGuard s x) (Done s) := by
  unfold fpGuard
  split
  · exact h
  · exact trap_runs s .und

theorem sameFsr_of_readOp {b : Bank} {n : Nat} {s s' t : State} {g : Gen} {v : Nat}
    (h : readOp b n s s' g = .ok (v, t)) : t.fsr = s'.fsr := by
  obtain ⟨-, -, -, -, -, ⟨-, -, hf, -⟩, -⟩ := readOp_frame h
  exact hf

/-- A result written, FSR updated and control passed on. -/
theorem fpStored_runs {x : Res State} {v : Dword} (hx : Runs s x (KeepStep s))
    (hv : FsrReserved s.fsr → FsrReserved v) :
    Runs s (x >>= fun t => Except.ok (({ t with fsr := v } : State).advance ins)) (Done s) := by
  refine hx.bind fun t ht => .inl ?_
  have hfsr : KeepStep s { t with fsr := v } :=
    ⟨fun hi => by
      obtain ⟨hm, hp, -⟩ := ht.inv hi
      exact ⟨hm, hp, hv hi.2.2⟩, ht.priv, ht.reset⟩
  exact hfsr.advance ins

theorem fpBinary_runs (f : FpLen) {op : FpVal → FpVal → Dword → FpOut} (hop : ∀ a b v, KeepsFsr v (op a b v)) :
    Runs s (fpBinary f ins src dst op s) (Done s) := by
  refine fpGuard_runs s ((readOp_runs (.refl s) .fp f.bytes s src).bind fun ⟨a, s1⟩ h1 =>
    (locate_runs h1 .fp s dst).bind fun l _ => (readLoc_runs h1 _ _).bind fun b _ => ?_)
  have hv := hop (fpUnpack f a) (fpUnpack f b) s.fsr
  dsimp only
  split
  · exact fpTrap_runs hv
  · exact fpStored_runs s ins (writeLoc_runs h1 _ _ _) hv

theorem fpUnary_runs (bs bd : Bank) (ns nd : Nat) {op : Nat → Dword → FpOut} (hop : ∀ a v, KeepsFsr v (op a v)) :
    Runs s (fpUnary bs bd ns nd ins src dst op s) (Done s) := by
  refine fpGuard_runs s ((readOp_runs (.refl s) bs ns s src).bind fun ⟨a, s1⟩ h1 => ?_)
  have hv := hop a s.fsr
  dsimp only
  split
  · exact fpTrap_runs hv
  · exact fpStored_runs s ins (writeOp_runs h1 _ _ _ _ _) hv

theorem cmpf_runs (f : FpLen) : Runs s (fpGuard s do
    let (a, s1) ← readOp .fp f.bytes s s src
    let (b, s2) ← readOp .fp f.bytes s s1 dst
    if fpReserved f a || fpReserved f b then s.fpTrap (fsrWithTt s.fsr 5)
    else
      let (gt, eq) := fpCompare (fpUnpack f a) (fpUnpack f b)
      .ok ((((({ s2 with fsr := fsrWithTt s.fsr 0 } : State).setFlag .z eq).setFlag .n gt).setFlag .l
        false).advance ins)) (Done s) := by
  refine fpGuard_runs s ((readOp_runs (.refl s) .fp f.bytes s src).bind_ok fun ⟨a, s1⟩ e1 h1 =>
    (readOp_runs h1 .fp f.bytes s dst).bind_ok fun ⟨b, s2⟩ e2 h2 => ?_)
  have hfsr : s2.fsr = s.fsr := (sameFsr_of_readOp e2).trans (sameFsr_of_readOp e1)
  dsimp only
  split
  · exact fpTrap_runs fun h => FsrReserved.withTt h 5
  · have h3 : KeepStep s { s2 with fsr := fsrWithTt s.fsr 0 } :=
      h2.fsr fun h => FsrReserved.withTt (v := s.fsr) (by rw [hfsr] at h; exact h) 0
    exact .inl ((((h3.setFlag .z _ (by decide)).setFlag .n _ (by decide)).setFlag .l _ (by decide)).advance ins)

theorem movlf_runs : Runs s (fpGuard s do
    let (a, s1) ← readOp .fp 8 s s src
    let (x, s2) := if fpUnpack .double a = .zero true then s1.freshNat 1 else (0, s1)
    let out := fpShorten (decide (x = 1)) (fpUnpack .double a) s.fsr
    match out.result with
    | none => s.fpTrap out.fsr
    | some v => do
      let s3 ← writeOp .fp 4 v s s2 dst
      .ok (({ s3 with fsr := out.fsr } : State).advance ins)) (Done s) := by
  refine fpGuard_runs s ((readOp_runs (.refl s) .fp 8 s src).bind fun ⟨a, s1⟩ h1 => ?_)
  have h2 : KeepStep s (if fpUnpack .double a = .zero true then s1.freshNat 1 else (0, s1)).2 := by
    split
    · exact h1.freshNat (n := 1) rfl
    · exact h1
  dsimp only
  generalize (if fpUnpack .double a = .zero true then s1.freshNat 1 else (0, s1)) = p at h2 ⊢
  have hv := fpShorten_fsr (decide (p.1 = 1)) (fpUnpack .double a) s.fsr
  split
  · exact fpTrap_runs hv
  · exact fpStored_runs s ins (writeOp_runs h2 _ _ _ _ _) hv

theorem lfsr_runs : Runs s (fpGuard s do
    let (v, s1) ← readOp .int 4 s s src
    .ok (({ s1 with fsr := BitVec.ofNat 32 v &&& fsrMask } : State).advance ins)) (Done s) :=
  fpGuard_runs s ((readOp_runs (.refl s) .int 4 s src).bind fun ⟨v, _⟩ h1 =>
    .inl ((h1.fsr fun _ => FsrReserved.mask (BitVec.ofNat 32 v)).advance ins))

theorem fpuIllegal_runs : Runs s (fpGuard s (s.fpTrap (fsrWithTt s.fsr 4))) (Done s) :=
  fpGuard_runs s (fpTrap_runs fun h => FsrReserved.withTt h 4)

/-! ## Integer, decimal and shift -/

theorem meii_runs : Runs s (do
    let (a, s1) ← readOp .int i.bytes s s src
    let l ← locate .int s s1 dst
    let lo ← s1.readLow i.bytes l
    let s2 ← s1.writePair i.bytes (a * lo % 2 ^ i.bits) (a * lo / 2 ^ i.bits) l
    .ok (s2.advance ins)) (KeepStep s) :=
  (readOp_runs (.refl s) .int _ s src).bind fun ⟨_, _⟩ h1 => (locate_runs h1 .int s dst).bind fun l _ =>
    (readLow_runs h1 _ l).bind fun _ _ => (writePair_runs h1 _ _ _ l).bind fun _ h2 => h2.advance ins

theorem divShape_runs (f : Int → Int → Int) : Runs s (divShape i ins src dst f s) (Done s) := by
  refine (readOp_runs (.refl s) .int _ s src).bind fun ⟨a, _⟩ h1 => (locate_runs h1 .int s dst).bind fun l _ =>
    (readLoc_runs h1 _ l).bind fun d _ => ?_
  split
  · exact trap_runs s .dvz
  · exact (writeLoc_runs h1 _ _ l).bind fun _ h2 => .inl (h2.advance ins)

theorem deii_runs : Runs s (do
    let (a, s1) ← readOp .int i.bytes s s src
    let l ← locate .int s s1 dst
    let (lo, hi) ← s1.readPair i.bytes l
    if a = 0 then s.trap .dvz
    else do
      let d := lo + 2 ^ i.bits * hi
      if d / a < 2 ^ i.bits then do
        let s2 ← s1.writePair i.bytes (d % a) (d / a) l
        .ok (s2.advance ins)
      else do
        let (v, s2) := s1.freshNat (2 * i.bits)
        let s3 ← s2.writePair i.bytes (v % 2 ^ i.bits) (v / 2 ^ i.bits) l
        .ok (s3.advance ins)) (Done s) := by
  refine (readOp_runs (.refl s) .int _ s src).bind fun ⟨a, _⟩ h1 => (locate_runs h1 .int s dst).bind fun l _ =>
    (readPair_runs h1 _ l).bind fun ⟨lo, hi⟩ _ => ?_
  dsimp only
  split
  · exact trap_runs s .dvz
  · split
    · exact (writePair_runs h1 _ _ _ l).bind fun _ h2 => .inl (h2.advance ins)
    · exact (writePair_runs (h1.freshNat (n := 2 * i.bits) rfl) _ _ _ l).bind fun _ h2 => .inl (h2.advance ins)

theorem decimalShape_runs (f : Nat → Nat → Nat → Nat × Bool) :
    Runs s (decimalShape i ins src dst f s) (KeepStep s) := by
  refine (readOp_runs (.refl s) .int _ s src).bind fun ⟨a, s1⟩ h1 => (locate_runs h1 .int s dst).bind fun l _ =>
    (readLoc_runs h1 _ l).bind fun d _ => ?_
  have flags (w : Word) (c : Bool) : UserFlags w (putFlag (putFlag w .c c) .f false) :=
    (UserFlags.putFlag w c (by decide)).then false (by decide)
  dsimp only
  split
  · exact (deliver_runs h1 (flags _ _) _ _ l).bind fun _ h2 => h2.advance ins
  · exact (deliver_runs (h1.freshNat (n := 33) rfl) (flags _ _) _ _ l).bind fun _ h2 => h2.advance ins

theorem shiftShape_runs (f : Nat → Int → Nat → Nat) : Runs s (shiftShape i ins src dst f s) (KeepStep s) := by
  refine (readOp_runs (.refl s) .int 1 s src).bind fun ⟨a, _⟩ h1 => (locate_runs h1 .int s dst).bind fun l _ =>
    (readLoc_runs h1 _ l).bind fun d _ => ?_
  dsimp only
  split
  · exact (writeLoc_runs h1 _ _ l).bind fun _ h2 => h2.advance ins
  · exact (writeLoc_runs (h1.freshNat (n := i.bits) rfl) _ _ l).bind fun _ h2 => h2.advance ins

theorem scondShape_runs (k : Cond) : Runs s (scondShape i ins k dst s) (KeepStep s) :=
  moveShape_runs s ins _ dst .int .int _ _ fun _ w => .refl w

/-! ## Memory management -/

theorem mmuGuard_runs {x : Res State} (h : s.flag .u = false → Runs s x (Done s)) : Runs s (mmuGuard s x) (Done s) := by
  unfold mmuGuard
  split
  · exact trap_runs s .und
  · split
    · exact trap_runs s .ill
    · rename_i hu
      exact h (Bool.eq_false_iff.2 hu)

theorem validateShape_runs : Runs s (validateShape ins src s) (Done s) := by
  refine mmuGuard_runs s fun hu => (addrOf_runs (.refl s) s src).bind fun _ _ => ?_
  split
  · exact .inl (((KeepStep.refl s).setFlag .f _ (by decide)).advance ins)
  · exact .inl (((KeepStep.refl s).setFlag .f _ (by decide)).advance ins)
  · exact abort_runs hu

theorem lmr_runs (f : MmuRegs → Nat → MmuRegs) : Runs s (mmuGuard s do
    let (v, s1) ← readOp .int 4 s s src
    .ok (({ s1 with mmu := f s1.mmu v } : State).advance ins)) (Done s) := by
  refine mmuGuard_runs s fun hu => (readOp_runs_psr (.refl s) .int 4 s src).bind fun ⟨v, s1⟩ ⟨h1, e1⟩ => .inl ?_
  exact (h1.trans (.of_supervisor (s := s1) (t := { s1 with mmu := f s1.mmu v })
    (by rw [State.flag, e1]; exact hu) id id)).advance ins

theorem smr_runs (v : Nat) : Runs s (mmuGuard s do
    let s1 ← writeOp .int 4 v s s dst
    .ok (s1.advance ins)) (Done s) :=
  mmuGuard_runs s fun _ => (storeThen_runs s ins dst .int 4 v).done

/-- What is privileged takes Trap (ILL) in User Mode. -/
theorem privileged_runs {x : Res State} (h : s.flag .u = false → Runs s x (KeepStep s)) :
    Runs s (if s.flag .u then s.trap .ill else x) (Done s) := by
  split
  · exact trap_runs s .ill
  · rename_i hu
    exact (h (Bool.eq_false_iff.2 hu)).done

theorem movsu_runs : Runs s (addrOf s s src >>= fun a => addrOf s s dst >>= fun b => s.memRead a i.bytes >>= fun v =>
    s.memWrite b i.bytes v >>= fun s1 => Except.ok (s1.advance ins)) (KeepStep s) :=
  (addrOf_runs (.refl s) s src).bind fun _ _ => (addrOf_runs (.refl s) s dst).bind fun _ _ =>
    (memRead_runs (.refl s) _ _).bind fun _ _ => (memWrite_runs (.refl s) _ _ _).bind fun _ h => h.advance ins

theorem movus_runs : Runs s (addrOf s s src >>= fun a => s.memRead a i.bytes >>= fun v => addrOf s s dst >>= fun b =>
    s.memWrite b i.bytes v >>= fun s1 => Except.ok (s1.advance ins)) (KeepStep s) :=
  (addrOf_runs (.refl s) s src).bind fun _ _ => (memRead_runs (.refl s) _ _).bind fun _ _ =>
    (addrOf_runs (.refl s) s dst).bind fun _ _ => (memWrite_runs (.refl s) _ _ _).bind fun _ h => h.advance ins

theorem custom_runs : Runs s (if !s.cfgC then s.trap .und else refuseWith .customSlave) (Done s) := by
  split
  · exact trap_runs s .und
  · trivial

theorem custom16_runs : Runs s (if !s.cfgC then s.trap .und else if s.flag .u then s.trap .ill
    else refuseWith .customSlave) (Done s) := by
  split
  · exact trap_runs s .und
  · split
    · exact trap_runs s .ill
    · trivial

/-! ## Services -/

theorem addr_runs (f : Dword → Nat) : Runs s (addrOf s s src >>= fun a => writeOp .int 4 (f a) s s dst >>= fun s1 =>
    Except.ok (s1.advance ins)) (KeepStep s) :=
  (addrOf_runs (.refl s) s src).bind fun _ _ => storeThen_runs s ins dst .int 4 _

theorem saveRegs_runs {s0 : State} (l : Byte) (ns : List (Fin 8)) {s : State} (h : KeepStep s0 s) :
    Runs s0 (saveRegs l ns s) (KeepStep s0) := by
  induction ns generalizing s with
  | nil => exact h
  | cons n ns ih =>
    unfold saveRegs
    split
    · exact (push_runs h 4 _).bind fun _ h1 => ih h1
    · exact ih h

theorem restoreRegs_runs {s0 : State} (l : Byte) (ns : List (Fin 8)) {s : State} (h : KeepStep s0 s) :
    Runs s0 (restoreRegs l ns s) (KeepStep s0) := by
  induction ns generalizing s with
  | nil => exact h
  | cons n ns ih =>
    unfold restoreRegs
    split
    · exact (pop_runs h 4).bind fun ⟨_, _⟩ h1 => ih (h1.setReg _ _)
    · exact ih h

theorem KeepStep.fp {s0 s : State} (h : KeepStep s0 s) (a : AddrReg) : KeepStep s0 { s with fp := a } :=
  h.same rfl rfl rfl rfl rfl rfl (fun _ => rfl) rfl

theorem enter_runs (l : Byte) (d : Disp) : Runs s (do
    let s1 ← s.push 4 s.fp.toNat
    let s2 ← saveRegs l listBits (({ s1 with fp := s1.sp } : State).addSp (-d.value))
    .ok (s2.advance ins)) (KeepStep s) :=
  (push_runs (.refl s) 4 _).bind fun s1 h1 =>
    (saveRegs_runs l listBits ((h1.fp s1.sp).addSp (-d.value))).bind fun _ h2 => h2.advance ins

theorem exit_runs (l : Byte) : Runs s (do
    let s1 ← restoreRegs l listBits s
    let (v, s2) ← (s1.setSp s1.fp).pop 4
    .ok (({ s2 with fp := low24 v } : State).advance ins)) (KeepStep s) :=
  (restoreRegs_runs l listBits (.refl s)).bind fun s1 h1 => (pop_runs (h1.setSp s1.fp) 4).bind fun ⟨v, _⟩ h2 =>
    (h2.fp (low24 v)).advance ins

/-- PSR loaded with its implemented bits, those of the upper byte as they are. -/
theorem KeepStep.load_lower {s0 s : State} (h : KeepStep s0 s) {w : Word} (hw : w &&& 0x0F00#16 = s.psr &&& 0x0F00#16) :
    KeepStep s0 { s with psr := w &&& psrMask } := by
  have upper (k : Flag) (hk : (0x0F00#16).getLsbD (flagBit k) = true) :
      Machine.flag (w &&& psrMask) k = Machine.flag s.psr k := by
    have hp : psrMask.getLsbD (flagBit k) = true := by revert hk; cases k <;> decide
    have hb := congrArg (fun x : Word => x.getLsbD (flagBit k)) hw
    simpa [Machine.flag, hk, hp] using hb
  exact h.trans ⟨fun ⟨hm, _, hf⟩ => ⟨hm, psrMask_reserved w, hf⟩, fun _ => ⟨upper .u (by decide), upper .s (by decide),
    upper .p (by decide), upper .i (by decide), rfl, rfl, rfl, fun _ => rfl⟩, id⟩

/-- Words that agree from bit 8 on agree in the flags of the upper byte. -/
theorem upper_congr {v w : Word} (h : ∀ k, 8 ≤ k → v.getLsbD k = w.getLsbD k) : v &&& 0x0F00#16 = w &&& 0x0F00#16 := by
  have low : ∀ k : Fin 8, (0x0F00#16).getLsbD k.val = false := by decide
  refine BitVec.eq_of_getLsbD_eq fun k _ => ?_
  rw [BitVec.getLsbD_and, BitVec.getLsbD_and]
  rcases Nat.lt_or_ge k 8 with hk | hk
  · rw [low ⟨k, hk⟩, Bool.and_false, Bool.and_false]
  · rw [h k hk]

/-- A byte has no bit from bit 8 on. -/
theorem byte_bit {v k : Nat} (hv : v < 256) (hk : 8 ≤ k) : (BitVec.ofNat 16 v).getLsbD k = false := by
  rw [BitVec.getLsbD_ofNat, Nat.testBit_lt_two_pow (Nat.lt_of_lt_of_le hv (Nat.pow_le_pow_right (n := 2) (by decide) hk)),
    Bool.and_false]

theorem bicpsr_upper (w : Word) {v : Nat} (hv : v < 256) :
    w &&& ~~~(BitVec.ofNat 16 v) &&& 0x0F00#16 = w &&& 0x0F00#16 := by
  refine upper_congr fun k hk => ?_
  rw [BitVec.getLsbD_and, BitVec.getLsbD_not, byte_bit hv hk]
  rcases Nat.lt_or_ge k 16 with h | h
  · simp [h]
  · simp [BitVec.getLsbD_of_ge w k h]

theorem bispsr_upper (w : Word) {v : Nat} (hv : v < 256) :
    (w ||| BitVec.ofNat 16 v) &&& 0x0F00#16 = w &&& 0x0F00#16 :=
  upper_congr fun k hk => by rw [BitVec.getLsbD_or, byte_bit hv hk, Bool.or_false]

/-- UPSR loaded keeps the upper byte of PSR. -/
theorem upsr_upper (w : Word) (v : Nat) :
    BitVec.ofNat 16 (w.toNat / 256 * 256 + v % 256) &&& 0x0F00#16 = w &&& 0x0F00#16 := by
  refine upper_congr fun k hk => ?_
  have hb := Nat.testBit_two_pow_mul_add (w.toNat / 2 ^ 8) (b := v % 2 ^ 8) (i := 8) (Nat.mod_lt _ (by decide)) k
  rw [if_neg (by omega), Nat.testBit_div_two_pow, Nat.sub_add_cancel hk] at hb
  rw [BitVec.getLsbD_ofNat, Nat.mul_comm, show (256 : Nat) = 2 ^ 8 from rfl, hb, BitVec.testBit_toNat]
  rcases Nat.lt_or_ge k 16 with h | h
  · simp [h]
  · simp [BitVec.getLsbD_of_ge w k h]

theorem psrShape_runs {f : Word → Word → Word}
    (hf : ∀ w v, v < 256 → f w (BitVec.ofNat 16 v) &&& 0x0F00#16 = w &&& 0x0F00#16) :
    Runs s (psrShape i ins src f s) (Done s) := by
  unfold psrShape
  split
  · trivial
  · rename_i hd
    split
    · exact trap_runs s .ill
    · rename_i hu
      refine (readOp_runs_psr (.refl s) .int i.bytes s src).bind_ok fun ⟨v, s1⟩ e1 ⟨h1, p1⟩ => .inl ?_
      have hload : KeepStep s { s1 with psr := f s.psr (BitVec.ofNat 16 v) &&& psrMask } := by
        cases i with
        | b =>
          refine h1.load_lower ?_
          rw [p1]
          exact hf s.psr v (readOp_lt e1 (by decide) (by decide))
        | w => exact h1.load_psr (by simpa using hu) p1 _
        | d => exact absurd rfl hd
      exact hload.advance ins

theorem loadUpsr_keeps {s0 s : State} (h : KeepStep s0 s) (v : Nat) : KeepStep s0 (s.loadUpsr v) :=
  h.load_lower (upsr_upper s.psr v)

theorem loadProcReg_keeps {s0 s : State} (h : KeepStep s0 s) (i : IntLen) {p : ProcReg} (v : Nat)
    (hu : privilegedReg p = true → s0.flag .u = false) (hp : s.psr = s0.psr) : KeepStep s0 (s.loadProcReg i p v) := by
  cases p with
  | upsr => exact loadUpsr_keeps h v
  | fp => exact h.fp _
  | sp => exact h.setSp _
  | sb => exact h.same rfl rfl rfl rfl rfl rfl (fun _ => rfl) rfl
  | mod => exact h.same rfl rfl rfl rfl rfl rfl (fun _ => rfl) rfl
  | psr =>
    unfold State.loadProcReg
    dsimp only
    split
    · exact loadUpsr_keeps h v
    · exact h.load_psr (hu rfl) hp _
  | intbase =>
    have hs : s.flag .u = false := by rw [State.flag, hp]; exact hu rfl
    exact h.trans (.of_supervisor hs id id)

/-- LPRi and SPRi of a privileged register take Trap (ILL) in User Mode. -/
theorem procReg_runs (p : ProcReg) {x : Res State}
    (h : (privilegedReg p = true → s.flag .u = false) → Runs s x (KeepStep s)) :
    Runs s (if privilegedReg p && s.flag .u then s.trap .ill else x) (Done s) := by
  split
  · exact trap_runs s .ill
  · rename_i hu
    exact (h fun hp => by simpa [hp] using hu).done

theorem lpri_runs (p : ProcReg) : Runs s (if privilegedReg p && s.flag .u then s.trap .ill
    else do
      let (v, s1) ← readOp .int i.bytes s s src
      .ok ((s1.loadProcReg i p v).advance ins)) (Done s) :=
  procReg_runs s p fun hu => (readOp_runs_psr (.refl s) .int i.bytes s src).bind fun ⟨v, _⟩ ⟨h1, p1⟩ =>
    (loadProcReg_keeps h1 i v hu p1).advance ins

theorem setcfg_runs (c : BitVec 4) (P : Prop) [Decidable P] : Runs s (if s.flag .u then s.trap .ill
    else if P then refuseWith .deviceAbsent else .ok (({ s with cfg := c } : State).advance ins)) (Done s) := by
  refine privileged_runs s fun hu => ?_
  split
  · trivial
  · exact (KeepStep.of_supervisor (t := { s with cfg := c }) hu id id).advance ins

/-! ## Strings -/

/-- What one element does keeps the state. -/
def ActKeeps (s : State) (act : Nat → State → Res (Bool × State)) : Prop :=
  ∀ t s1, KeepStep s s1 → Runs s (act t s1) fun p => KeepStep s p.2

theorem elementDone_keeps {s0 s : State} (h : KeepStep s0 s) (o : StrOpt) (n : Nat) (two : Bool) :
    KeepStep s0 (s.elementDone o n two) := by
  cases two
  · exact (h.setReg _ _).setReg _ _
  · exact ((h.setReg _ _).setReg _ _).setReg _ _

theorem terminate_keeps {s0 s : State} (h : KeepStep s0 s) (f : Bool) : KeepStep s0 (s.terminate ins f) :=
  (h.setFlag .f f (by decide)).advance ins

theorem stringShape_runs (n : Nat) (tr : Bool) (o : StrOpt) (two : Bool) {init : Word → Word}
    {act : Nat → State → Res (Bool × State)} (hi : ∀ w, UserFlags w (init w)) (ha : ActKeeps s act) :
    Runs s (stringShape ins n tr o two init act s) (KeepStep s) := by
  have h0 : KeepStep s { s with psr := init s.psr } := (KeepStep.refl s).psr (hi s.psr)
  have afterElement (t : Nat) : Runs s (
      if stringMatch o t (({ s with psr := init s.psr } : State).regLow 4 n) then
        .ok (({ s with psr := init s.psr } : State).terminate ins true)
      else act t { s with psr := init s.psr } >>= fun p =>
        if p.1 then .ok (p.2.elementDone o n two) else .ok (p.2.terminate ins false)) (KeepStep s) := by
    split
    · exact terminate_keeps ins h0 _
    · refine (ha t _ h0).bind fun p h1 => ?_
      split
      · exact elementDone_keeps h1 o n two
      · exact terminate_keeps ins h1 _
  unfold stringShape
  dsimp only
  split
  · trivial
  · split
    · exact terminate_keeps ins h0 _
    · refine (memRead_runs h0 _ n).bind fun e _ => ?_
      split
      · exact (memRead_runs h0 _ 1).bind fun t _ => afterElement t
      · exact afterElement e

theorem moveElement_keeps (n : Nat) : ActKeeps s (moveElement n) := fun _ _ h =>
  (memWrite_runs h _ _ _).bind fun _ h1 => h1

theorem compareElement_keeps (n : Nat) : ActKeeps s (compareElement n) := fun t s1 h =>
  (memRead_runs h _ _).bind fun v _ => h.psr (.cmpFlags (8 * n) t v s1.psr)

theorem skipElement_keeps : ActKeeps s skipElement := fun _ _ h => h

theorem equalFlags_user (w : Word) : UserFlags w (equalFlags w) :=
  ((UserFlags.putFlag w true (by decide)).then false (by decide)).then false (by decide)

end Bodies

end Sys2Proof.Machine
end

section
/-! PROOFS. Every instruction keeps the invariant and, in User Mode, the privileged state (10_state.md R69); so does
every step the invariant. -/
namespace Sys2Proof.Machine

/-- `ins` runs a body that keeps the state, or ends with a trap. -/
def Kept (ins : Instr) (s : State) : Prop := ∃ x, exec ins s = s.run x ∧ Runs s x (Done s)

theorem Kept.of_keeps {ins : Instr} {s : State} {x : Res State} (h : Runs s x (KeepStep s))
    (he : exec ins s = s.run x) : Kept ins s := ⟨x, he, h.done⟩

/-- An instruction that only changes the state, without an access. -/
theorem Kept.of_next {ins : Instr} {s t : State} (h : KeepStep s t) (he : exec ins s = .next t) : Kept ins s :=
  ⟨.ok t, he, .inl h⟩

/-- A part that answers, then an update that keeps the state. -/
theorem Runs.answer {α : Type} {s : State} {x : Res α} {p : α → Prop} {g : α → State} (hx : Runs s x p)
    (hg : ∀ a, p a → KeepStep s (g a)) : Runs s (x >>= fun a => Except.ok (g a)) (KeepStep s) := hx.bind hg

section Groups
variable (s : State) (i : IntLen) (f : FpLen) (a b : Gen) (d d2 : Disp) (q : BitVec 4) (l : Byte) (k : Fin 8)

theorem branch_kept (c : Cond) {ins : Instr} (he : exec ins s = .next (branchIf ins c d s)) : Kept ins s :=
  .of_next (branchIf_keeps s ins c d) he

theorem call_kept {x : Res Nat} {ins : Instr} (hx : Runs s x fun _ => True)
    (he : exec ins s = s.run (x >>= fun p => callExternal ins p s)) : Kept ins s := by
  obtain ⟨y, rfl, hy⟩ := exists_callExternal_runs s ins hx
  exact .of_keeps hy he

/-- CXPD calls the procedure of the descriptor that its operand addresses (R412). -/
theorem exec_cxpd (desc : Gen) : exec (.cxpd desc) s =
    s.run ((addrOf s s desc >>= fun a => s.memRead a 4) >>= fun p => callExternal (.cxpd desc) p s) := by
  have he : exec (.cxpd desc) s =
      s.run (addrOf s s desc >>= fun a => s.memRead a 4 >>= fun p => callExternal (.cxpd desc) p s) := rfl
  rw [he]
  cases addrOf s s desc <;> rfl

theorem scond_kept (c : Cond) {ins : Instr} (he : exec ins s = s.run (scondShape i ins c a s)) : Kept ins s :=
  .of_keeps (scondShape_runs s i ins a c) he

theorem rmw_kept (n m : Nat) {ins : Instr} {g : Nat → Nat → Word → Nat × Word} (hg : ∀ x y w, UserFlags w (g x y w).2)
    (he : exec ins s = s.run (rmwShape n m ins a b g s)) : Kept ins s :=
  .of_keeps (rmwShape_runs s ins a b n m hg) he

theorem move_kept (n m : Nat) {ins : Instr} {g : Nat → Word → Nat × Word} (hg : ∀ x w, UserFlags w (g x w).2)
    (he : exec ins s = s.run (moveShape .int .int n m ins a b g s)) : Kept ins s :=
  .of_keeps (moveShape_runs s ins a b .int .int n m hg) he

/-- The two moves to a double-word have no D form (U11). -/
theorem extend_kept (n m : Nat) (c : Bool) (r : Refusal) {ins : Instr} {g : Nat → Word → Nat × Word}
    (hg : ∀ x w, UserFlags w (g x w).2)
    (he : exec ins s = s.run (if c then moveShape .int .int n m ins a b g s else refuseWith r)) : Kept ins s := by
  refine .of_keeps ?_ he
  split
  · exact moveShape_runs s ins a b .int .int n m hg
  · trivial

theorem bit_kept (g : Nat → Nat → Nat) {u : Loc → State → State} {ins : Instr}
    (hu : ∀ c t, KeepStep s t → KeepStep s (u c t))
    (he : exec ins s = s.run (bitShape i a b g s >>= fun p => Except.ok ((u p.1 p.2).advance ins))) :
    Kept ins s := by
  have hg (p : Loc × State) (h : KeepStep s p.2) : KeepStep s ((u p.1 p.2).advance ins) := (hu p.1 p.2 h).advance ins
  exact .of_keeps (Runs.answer (bitShape_runs s i a b g) hg) he

theorem fpBinary_kept {ins : Instr} {op : FpVal → FpVal → Dword → FpOut} (hop : ∀ x y v, KeepsFsr v (op x y v))
    (he : exec ins s = s.run (fpBinary f ins a b op s)) : Kept ins s := ⟨_, he, fpBinary_runs s ins a b f hop⟩

theorem fpUnary_kept (bs bd : Bank) (n m : Nat) {ins : Instr} {op : Nat → Dword → FpOut}
    (hop : ∀ x v, KeepsFsr v (op x v)) (he : exec ins s = s.run (fpUnary bs bd n m ins a b op s)) : Kept ins s :=
  ⟨_, he, fpUnary_runs s ins a b bs bd n m hop⟩

theorem string_kept (n : Nat) (tr : Bool) (o : StrOpt) (two : Bool) {ins : Instr} {init : Word → Word}
    {act : Nat → State → Res (Bool × State)} (hi : ∀ w, UserFlags w (init w)) (ha : ActKeeps s act)
    (he : exec ins s = s.run (stringShape ins n tr o two init act s)) : Kept ins s :=
  .of_keeps (stringShape_runs s ins n tr o two hi ha) he

/-- A sign is inverted or cleared only where the operand is not reserved. -/
theorem signOp_fsr (g : Nat → Nat) (x : Nat) (v : Dword) :
    KeepsFsr v (if fpReserved f x then fpTrapWith v 5 else fpExact v (g x)) := by
  split
  · exact fpTrapWith_fsr v 5
  · exact fpExact_fsr v _

theorem movif_fsr (x : Nat) (v : Dword) : KeepsFsr v (if sext i.bits x = 0 then fpExact v 0
    else fpResult f (decide (sext i.bits x < 0)) (sext i.bits x).natAbs 1 0 v) := by
  split
  · exact fpExact_fsr v _
  · exact fpResult_fsr f _ _ _ _ v

end Groups

theorem exec_kept (ins : Instr) (s : State) : Kept ins s := by
  have same1 {g : Nat → Nat} (x : Nat) (w : Word) : UserFlags w (g x, w).2 := .refl w
  have same2 {g : Nat → Nat → Nat} (x y : Nat) (w : Word) : UserFlags w (g x y, w).2 := .refl w
  cases ins with
  | bsr d =>
    obtain ⟨y, hy, h⟩ := exists_bsr_runs s (.bsr d) d
    have he : exec (.bsr d) s = s.run (s.pushReturn (.bsr d) >>= fun s1 => Except.ok (s1.branch d.value)) := rfl
    rw [hy] at he
    exact .of_keeps h he
  | ret d => exact .of_keeps (ret_runs s d) rfl
  | cxp d => exact call_kept s (linkEntry_runs (.refl s) d.value) rfl
  | rxp d => exact .of_keeps (rxp_runs s d) rfl
  | rett d => exact ⟨_, rfl, rett_runs s d⟩
  | reti => exact ⟨_, rfl, reti_runs s⟩
  | save l =>
    exact .of_keeps ((saveRegs_runs l listBits (.refl s)).answer (g := fun t => t.advance (.save l)) fun _ h => h.advance _) rfl
  | restore l =>
    exact .of_keeps
      ((restoreRegs_runs l listBits (.refl s)).answer (g := fun t => t.advance (.restore l)) fun _ h => h.advance _) rfl
  | enter l d => exact .of_keeps (enter_runs s _ l d) rfl
  | exit l => exact .of_keeps (exit_runs s _ l) rfl
  | nop => exact .of_next ((KeepStep.refl s).advance _) rfl
  | wait =>
    exact .of_next (((KeepStep.refl s).same (t := { s with waiting := true }) rfl rfl rfl rfl rfl rfl (fun _ => rfl)
      rfl).advance _) rfl
  | dia => exact .of_next ((KeepStep.refl s).branch 0) rfl
  | flag =>
    refine ⟨_, exec_flag s, ?_⟩
    split
    · exact trap_runs s _
    · exact .inl ((KeepStep.refl s).advance _)
  | svc => exact ⟨_, rfl, trap_runs s _⟩
  | bpt => exact ⟨_, rfl, trap_runs s _⟩
  | beq d => exact branch_kept s d .eq rfl
  | bne d => exact branch_kept s d .ne rfl
  | bcs d => exact branch_kept s d .cs rfl
  | bcc d => exact branch_kept s d .cc rfl
  | bhi d => exact branch_kept s d .hi rfl
  | bls d => exact branch_kept s d .ls rfl
  | bgt d => exact branch_kept s d .gt rfl
  | ble d => exact branch_kept s d .le rfl
  | bfs d => exact branch_kept s d .fs rfl
  | bfc d => exact branch_kept s d .fc rfl
  | blo d => exact branch_kept s d .lo rfl
  | bhs d => exact branch_kept s d .hs rfl
  | blt d => exact branch_kept s d .lt rfl
  | bge d => exact branch_kept s d .ge rfl
  | br d => exact .of_next ((KeepStep.refl s).branch _) rfl
  | addqi i q dst => exact rmw_kept s _ dst _ _ (fun a d w => .addFlags _ _ _ _ w) rfl
  | cmpqi i q src => exact .of_keeps (compareShape_runs s _ _ src _ fun a b w => .cmpFlags _ a b w) rfl
  | spri i p dst => exact ⟨_, rfl, procReg_runs s p fun _ => storeThen_runs s _ dst .int _ _⟩
  | acbi i q idx d => exact .of_keeps (acb_runs s i _ idx q d) rfl
  | movqi i q dst => exact move_kept s _ dst _ _ same1 rfl
  | lpri i p src => exact ⟨_, rfl, lpri_runs s i _ src p⟩
  | seqi i dst => exact scond_kept s i dst .eq rfl
  | snei i dst => exact scond_kept s i dst .ne rfl
  | scsi i dst => exact scond_kept s i dst .cs rfl
  | scci i dst => exact scond_kept s i dst .cc rfl
  | shii i dst => exact scond_kept s i dst .hi rfl
  | slsi i dst => exact scond_kept s i dst .ls rfl
  | sgti i dst => exact scond_kept s i dst .gt rfl
  | slei i dst => exact scond_kept s i dst .le rfl
  | sfsi i dst => exact scond_kept s i dst .fs rfl
  | sfci i dst => exact scond_kept s i dst .fc rfl
  | sloi i dst => exact scond_kept s i dst .lo rfl
  | shsi i dst => exact scond_kept s i dst .hs rfl
  | slti i dst => exact scond_kept s i dst .lt rfl
  | sgei i dst => exact scond_kept s i dst .ge rfl
  | cxpd desc =>
    exact call_kept s ((addrOf_runs (.refl s) s desc).bind fun a _ => memRead_runs (.refl s) a 4) (exec_cxpd s desc)
  | bicpsri i src => exact ⟨_, rfl, psrShape_runs s i _ src fun w v hv => bicpsr_upper w hv⟩
  | bispsri i src => exact ⟨_, rfl, psrShape_runs s i _ src fun w v hv => bispsr_upper w hv⟩
  | jump dst =>
    exact .of_keeps ((addrOf_runs (.refl s) s dst).answer (g := s.goto) fun a _ => (KeepStep.refl s).goto a) rfl
  | adjspi i src => exact .of_keeps (readThen_runs s src .int _ fun v t h => (h.addSp (-sext i.bits v)).advance _) rfl
  | jsr dst => exact .of_keeps (jsr_runs s _ dst) rfl
  | casei i src => exact .of_keeps (readThen_runs s src .int _ fun v t h => h.branch (sext i.bits v)) rfl
  | addi i src dst => exact rmw_kept s src dst _ _ (fun a d w => .addFlags _ _ _ _ w) rfl
  | cmpi i src1 src2 => exact .of_keeps (compareShape_runs s _ src1 src2 _ fun a b w => .cmpFlags _ a b w) rfl
  | bici i src dst => exact rmw_kept s src dst _ _ same2 rfl
  | addci i src dst => exact rmw_kept s src dst _ _ (fun a d w => .addFlags _ _ _ _ w) rfl
  | movi i src dst => exact move_kept s src dst _ _ same1 rfl
  | ori i src dst => exact rmw_kept s src dst _ _ same2 rfl
  | subi i src dst => exact rmw_kept s src dst _ _ (fun a d w => .subFlags _ _ _ _ w) rfl
  | addr src dst => exact .of_keeps (addr_runs s _ src dst fun a => a.toNat) rfl
  | lxpd d1 d2 dst => exact .of_keeps (addr_runs s _ (.mode (.ext d1 d2)) dst fun a => a.toNat) rfl
  | andi i src dst => exact rmw_kept s src dst _ _ same2 rfl
  | subci i src dst => exact rmw_kept s src dst _ _ (fun a d w => .subFlags _ _ _ _ w) rfl
  | tbiti i off base => exact .of_keeps (tbit_runs s i _ off base) rfl
  | xori i src dst => exact rmw_kept s src dst _ _ same2 rfl
  | movsi i o => exact string_kept s _ _ o true (fun w => .refl w) (moveElement_keeps s _) rfl
  | movst o => exact string_kept s _ _ o true (fun w => .refl w) (moveElement_keeps s _) rfl
  | cmpsi i o => exact string_kept s _ _ o true equalFlags_user (compareElement_keeps s _) rfl
  | cmpst o => exact string_kept s _ _ o true equalFlags_user (compareElement_keeps s _) rfl
  | setcfg c => exact ⟨_, rfl, setcfg_runs s _ c _⟩
  | skpsi i o => exact string_kept s _ _ o false (fun w => .refl w) (skipElement_keeps s) rfl
  | skpst o => exact string_kept s _ _ o false (fun w => .refl w) (skipElement_keeps s) rfl
  | roti i cnt dst => exact .of_keeps (shiftShape_runs s i _ cnt dst _) rfl
  | ashi i cnt dst => exact .of_keeps (shiftShape_runs s i _ cnt dst _) rfl
  | cbiti i off base => exact bit_kept s i off base bitClear (u := fun _ t => t) (fun _ _ h => h) rfl
  | cbitii i off base =>
    exact bit_kept s i off base bitClear (u := fun c t => { t with interlock := isMemory c })
      (fun _ _ h => h.interlock _) rfl
  | lshi i cnt dst => exact .of_keeps (shiftShape_runs s i _ cnt dst _) rfl
  | sbiti i off base => exact bit_kept s i off base bitSet (u := fun _ t => t) (fun _ _ h => h) rfl
  | sbitii i off base =>
    exact bit_kept s i off base bitSet (u := fun c t => { t with interlock := isMemory c })
      (fun _ _ h => h.interlock _) rfl
  | negi i src dst => exact move_kept s src dst _ _ (fun a w => .subFlags _ _ _ _ w) rfl
  | noti i src dst => exact move_kept s src dst _ _ same1 rfl
  | subpi i src dst => exact .of_keeps (decimalShape_runs s i _ src dst _) rfl
  | absi i src dst => exact move_kept s src dst _ _ (fun a w => .putFlag w _ (by decide)) rfl
  | comi i src dst => exact move_kept s src dst _ _ same1 rfl
  | ibiti i off base => exact bit_kept s i off base bitInvert (u := fun _ t => t) (fun _ _ h => h) rfl
  | addpi i src dst => exact .of_keeps (decimalShape_runs s i _ src dst _) rfl
  | exti i off base dst len =>
    exact .of_keeps ((fieldLength_runs s _).bind fun n _ => extractShape_runs s i _ base dst _ n) rfl
  | indexi i accum len idx =>
    exact .of_keeps (index_runs s i _ len idx accum fun l x => BitVec.ofNat 32 (s.r[accum].toNat * (l + 1) + x)) rfl
  | cvtp off base dst => exact .of_keeps (addr_runs s _ base dst fun a => (8#32 * a + s.r[off]).toNat) rfl
  | ffsi i base off => exact .of_keeps (ffs_runs s i _ base off) rfl
  | insi i off src base len =>
    exact .of_keeps ((fieldLength_runs s _).bind fun n _ => insertShape_runs s i _ src base _ n) rfl
  | movsui i src dst => exact ⟨_, rfl, privileged_runs s fun _ => movsu_runs s i _ src dst⟩
  | movusi i src dst => exact ⟨_, rfl, privileged_runs s fun _ => movus_runs s i _ src dst⟩
  | checki i dst bounds src => exact .of_keeps (check_runs s i _ bounds src dst) rfl
  | movmi i block1 block2 len =>
    exact .of_keeps ((blockCount_runs s _ _).bind fun k _ =>
      movm_runs s i _ block1 block2 k fun a b => overlap a b (k * i.bytes)) rfl
  | cmpmi i block1 block2 len =>
    exact .of_keeps ((blockCount_runs s _ _).bind fun k _ => cmpm_runs s i _ block1 block2 k) rfl
  | inssi i src base off len => exact .of_keeps (insertShape_runs s i _ src base _ _) rfl
  | extsi i base dst off len => exact .of_keeps (extractShape_runs s i _ base dst _ _) rfl
  | movxbw src dst => exact move_kept s src dst _ _ same1 rfl
  | movzbw src dst => exact move_kept s src dst _ _ same1 rfl
  | movzid i src dst => exact extend_kept s src dst _ _ i.short _ same1 rfl
  | movxid i src dst => exact extend_kept s src dst _ _ i.short _ same1 rfl
  | muli i src dst => exact rmw_kept s src dst _ _ same2 rfl
  | meii i src dst => exact .of_keeps (meii_runs s i _ src dst) rfl
  | deii i src dst => exact ⟨_, rfl, deii_runs s i _ src dst⟩
  | quoi i src dst => exact ⟨_, rfl, divShape_runs s i _ src dst _⟩
  | remi i src dst => exact ⟨_, rfl, divShape_runs s i _ src dst _⟩
  | modi i src dst => exact ⟨_, rfl, divShape_runs s i _ src dst _⟩
  | divi i src dst => exact ⟨_, rfl, divShape_runs s i _ src dst _⟩
  | rdval loc => exact ⟨_, rfl, validateShape_runs s _ loc⟩
  | wrval loc => exact ⟨_, rfl, validateShape_runs s _ loc⟩
  | lmr m src => exact ⟨_, rfl, lmr_runs s _ src fun r v => setMmuReg r m (BitVec.ofNat 32 v)⟩
  | smr m dst => exact ⟨_, rfl, smr_runs s _ dst _⟩
  | movif i f src dst => exact fpUnary_kept s src dst _ _ _ _ (movif_fsr i f) rfl
  | lfsr src => exact ⟨_, rfl, lfsr_runs s _ src⟩
  | movlf src dst => exact ⟨_, rfl, movlf_runs s _ src dst⟩
  | movfl src dst => exact fpUnary_kept s src dst _ _ _ _ (fun _ v => fpLengthen_fsr _ v) rfl
  | roundfi f i src dst => exact fpUnary_kept s src dst _ _ _ _ (fun _ v => fpConvert_fsr 0 i _ v) rfl
  | truncfi f i src dst => exact fpUnary_kept s src dst _ _ _ _ (fun _ v => fpConvert_fsr 1 i _ v) rfl
  | sfsr dst => exact ⟨_, rfl, fpGuard_runs s (storeThen_runs s _ dst .int 4 _).done⟩
  | floorfi f i src dst => exact fpUnary_kept s src dst _ _ _ _ (fun _ v => fpConvert_fsr 3 i _ v) rfl
  | addf f src dst => exact fpBinary_kept s f src dst (fpAdd_fsr f) rfl
  | movf f src dst => exact fpUnary_kept s src dst _ _ _ _ (fun x v => fpExact_fsr v x) rfl
  | cmpf f src1 src2 => exact ⟨_, rfl, cmpf_runs s _ src1 src2 f⟩
  | subf f src dst => exact fpBinary_kept s f src dst (fun a b => fpAdd_fsr f (fpNegate a) b) rfl
  | negf f src dst => exact fpUnary_kept s src dst _ _ _ _ (signOp_fsr f _) rfl
  | divf f src dst => exact fpBinary_kept s f src dst (fpDiv_fsr f) rfl
  | mulf f src dst => exact fpBinary_kept s f src dst (fpMul_fsr f) rfl
  | absf f src dst => exact fpUnary_kept s src dst _ _ _ _ (signOp_fsr f _) rfl
  | fpuIllegal0011 hi lo => exact ⟨_, rfl, fpuIllegal_runs s⟩
  | fpuIllegal1001 hi lo => exact ⟨_, rfl, fpuIllegal_runs s⟩
  | custom16 => exact ⟨_, rfl, custom16_runs s⟩
  | custom36 => exact ⟨_, rfl, custom_runs s⟩
  | customB6 => exact ⟨_, rfl, custom_runs s⟩

end Sys2Proof.Machine
end

section
/-! PROOFS. The invariant of the machine over its steps, and what User Mode protects (10_state.md R41, R56, R69). -/
namespace Sys2Proof.Machine

/-! ## PSR on entry to a service procedure -/

theorem putFlag_reserved {w : Word} (k : Flag) (b : Bool) (h : w &&& 0xF018#16 = 0#16) :
    putFlag w k b &&& 0xF018#16 = 0#16 := by
  have hk : (1#16 <<< flagBit k) &&& 0xF018#16 = 0#16 := by cases k <;> decide
  cases b
  · rw [putFlag, if_neg (by decide), BitVec.and_assoc, BitVec.and_comm (~~~_), ← BitVec.and_assoc, h, BitVec.zero_and]
  · rw [putFlag, if_pos rfl, BitVec.and_or_distrib_right, h, hk, BitVec.zero_or]

theorem clearFlags_reserved {w : Word} (ks : List Flag) (h : w &&& 0xF018#16 = 0#16) :
    clearFlags w ks &&& 0xF018#16 = 0#16 := by
  induction ks generalizing w with
  | nil => exact h
  | cons k ks ih => exact ih (putFlag_reserved k false h)

/-! ## Entry sequences -/

theorem Inv.resetEvent {c : State} (h : c.mem.wf = true) : Inv c.resetEvent :=
  ⟨h, show (0#16) &&& 0xF018#16 = 0#16 by decide, show (0#32) &&& 0xFFFF0000#32 = 0#32 by decide⟩

/-- An entry sequence whose parts keep the state keeps the invariant, completed or ended by Reset. -/
theorem entry_inv {s t : State} {x : Res State} (hx : Runs s x (KeepStep s)) (hi : Inv s) (h : entry x = .ok t) :
    Inv t := by
  obtain rfl | ⟨c, rfl, rfl⟩ := entry_ok.1 h
  · exact hx.inv hi
  · exact .resetEvent (hx.1.inv hi).1

/-- Without a Reset to come an entry sequence is not ended by one. -/
theorem entry_completes {s t : State} {x : Res State} (hx : Runs s x (KeepStep s)) (hr : s.cut.reset = none)
    (h : entry x = .ok t) : x = .ok t := by
  obtain h | ⟨c, rfl, -⟩ := entry_ok.1 h
  · exact h
  · have hc := hx.1.reset hr
    rw [hx.2] at hc
    cases hc

theorem pushService_runs (s : State) (image v : Nat) (ra : AddrReg) :
    Runs s (s.push 2 image >>= fun s1 => s1.service v ra) (KeepStep s) :=
  (push_runs (.refl s) 2 image).bind fun _ h1 => service_runs h1 v ra

/-- Taking an exception keeps the invariant. -/
theorem takeException_inv {s t : State} {image psr : Word} {v : Nat} {ra : AddrReg} (hi : Inv s)
    (hp : psr &&& 0xF018#16 = 0#16) (h : s.takeException image psr v ra = .ok t) : Inv t :=
  entry_inv (pushService_runs { s with psr := psr } image.toNat v ra) ⟨hi.1, hp, hi.2.2⟩ h

/-- Taking an exception leaves INTBASE, CFG and the MMU registers, where Reset does not end it (R519). -/
theorem takeException_system {s t : State} {image psr : Word} {v : Nat} {ra : AddrReg} (hr : s.cut.reset = none)
    (h : s.takeException image psr v ra = .ok t) : t.intbase = s.intbase ∧ t.cfg = s.cfg ∧ t.mmu = s.mmu := by
  have hx := entry_completes (pushService_runs { s with psr := psr } image.toNat v ra) hr h
  obtain ⟨s1, h1, hx⟩ := Res.bind_ok hx
  obtain ⟨s2, h2, hx⟩ := Res.bind_ok hx
  obtain ⟨s3, h3, hx⟩ := Res.bind_ok hx
  obtain ⟨d, -, hx⟩ := Res.bind_ok hx
  obtain ⟨-, -, rfl⟩ := State.push_ok h1
  obtain ⟨-, -, rfl⟩ := State.push_ok h2
  obtain ⟨-, -, rfl⟩ := State.push_ok h3
  obtain ⟨-, rfl⟩ := State.enterProcedure_ok hx
  simp

theorem trap_inv {s t : State} {k : TrapKind} (hi : Inv s) (h : s.trap k = .ok t) : Inv t :=
  takeException_inv hi (clearFlags_reserved _ hi.2.1) h

theorem abort_inv {s t : State} (hi : Inv s) (h : s.abort = .ok t) : Inv t :=
  takeException_inv hi (clearFlags_reserved _ (putFlag_reserved _ _ hi.2.1)) h

theorem traceTrap_inv {s t : State} (hi : Inv s) (h : s.traceTrap = .ok t) : Inv t :=
  takeException_inv hi (clearFlags_reserved _ (putFlag_reserved _ _ hi.2.1)) h

theorem cascadeRead_runs {s0 s : State} (h : KeepStep s0 s) (a : Dword) :
    Runs s0 (s.cascadeRead a) fun _ => True := by
  unfold State.cascadeRead
  split
  · exact (deviceRead_runs h _ _).bind fun _ _ => trivial
  · exact memRead_runs h a 1

theorem intVector_runs {s0 s : State} (h : KeepStep s0 s) : Runs s0 s.intVector fun _ => True := by
  refine (deviceRead_runs h _ _).bind fun b _ => ?_
  split
  · split
    · trivial
    · exact (cascadeAddress_runs h b).bind fun a _ => cascadeRead_runs h a
  · trivial

/-- The body of an interrupt, from the state whose PSR is already the new one, keeps the state. -/
theorem interruptBody_runs (s : State) (image : Nat) (nmi : Bool) (ra : AddrReg) :
    Runs s (s.push 2 image >>= fun s1 =>
      if nmi then s1.deviceRead Config.nmiAckAddr 0 >>= fun _ => ({ s1 with nmiPending := false } : State).service 1 ra
      else s1.intVector >>= fun v => s1.service v ra) (KeepStep s) := by
  refine (push_runs (.refl s) 2 image).bind fun s1 h1 => ?_
  split
  · exact (deviceRead_runs h1 _ _).bind fun _ _ =>
      service_runs (h1.same (t := { s1 with nmiPending := false }) rfl rfl rfl rfl rfl rfl (fun _ => rfl) rfl) 1 ra
  · exact (intVector_runs h1).bind fun v _ => service_runs h1 v ra

theorem interrupt_inv {s t : State} {nmi u : Bool} (hi : Inv s) (h : s.interrupt nmi u = .ok t) : Inv t := by
  obtain ⟨hm, hp, hf⟩ := hi
  have himage : (if u then putFlag s.psr .p false else s.psr) &&& 0xF018#16 = 0#16 := by
    split
    · exact putFlag_reserved _ _ hp
    · exact hp
  exact entry_inv (interruptBody_runs { s with
      waiting := false
      psr := clearFlags (if u then putFlag s.psr .p false else s.psr) [.s, .u, .t, .p, .i] } _ nmi s.pc)
    ⟨hm, clearFlags_reserved _ himage, hf⟩ h

/-! ## The end of a step -/

theorem boundary_inv {s t : State} {u : Bool} (hi : Inv s) (h : s.boundary u = .ok t) : Inv t := by
  unfold State.boundary at h
  split at h
  · exact interrupt_inv hi h
  · split at h
    · exact interrupt_inv hi h
    · split at h
      · exact traceTrap_inv hi h
      · cases h
        exact hi

theorem lateReset_inv {s : State} (hi : Inv s) : Inv s.lateReset := by
  unfold State.lateReset
  split
  · exact hi
  · exact .resetEvent hi.1

theorem spend_inv {s : State} (hi : Inv s) : Inv s.spend := hi

theorem complete_inv {s t : State} {u : Bool} (hi : Inv s) (h : s.complete u = .ok t) : Inv t := by
  obtain ⟨s1, h1, h⟩ := Res.bind_ok h
  cases h
  exact spend_inv (lateReset_inv (boundary_inv hi h1))

/-- The end of a step is settled: it is cut short neither by an abort nor by Reset. -/
theorem complete_settled (s c : State) (u : Bool) : s.complete u ≠ .error (.reset c) := by
  have hb : s.boundary u ≠ .error (.reset c) := by
    unfold State.boundary
    split
    · exact (entry_settled _ _).2
    · split
      · exact (entry_settled _ _).2
      · split
        · exact (entry_settled _ _).2
        · exact fun h => nomatch h
  intro h
  unfold State.complete at h
  generalize s.boundary u = x at h hb
  rcases x with e | t
  · cases h
    exact hb rfl
  · cases h

/-- The step after what was taken at its start. -/
theorem finish_complete_inv {x : Res State} {u : Bool} {t : State} (hx : ∀ s, x = .ok s → Inv s)
    (hr : ∀ c, x ≠ .error (.reset c)) (h : finish (x.bind fun s => s.complete u) = .next t) : Inv t := by
  rcases x with e | s
  · obtain h | ⟨c, h, -⟩ := finish_next.1 h
    · cases h
    · cases h
      exact absurd rfl (hr c)
  · obtain h | ⟨c, h, -⟩ := finish_next.1 h
    · exact complete_inv (hx s rfl) h
    · exact absurd h (complete_settled s c u)

/-! ## Instructions -/

theorem aborted_inv {s c : State} (hs : Inv s) (hc : Inv c) : Inv (s.aborted c) := by
  unfold State.aborted
  dsimp only
  split
  · exact ⟨hc.1, hs.2⟩
  · refine ⟨hc.1, ?_, hs.2.2⟩
    change (s.psr &&& ~~~_ ||| c.psr &&& _) &&& 0xF018#16 = 0#16
    have clear {a : Word} (b : Word) (ha : a &&& 0xF018#16 = 0#16) : a &&& b &&& 0xF018#16 = 0#16 := by
      rw [BitVec.and_assoc, BitVec.and_comm b, ← BitVec.and_assoc, ha, BitVec.zero_and]
    rw [BitVec.and_or_distrib_right, clear _ hs.2.1, clear _ hc.2.1, BitVec.zero_or]

theorem done_inv {s t : State} (hi : Inv s) (h : Done s t) : Inv t := by
  obtain h | ⟨k, v, hv, h⟩ | ⟨-, h⟩ := h
  · exact h.inv hi
  · exact trap_inv (s := { s with fsr := v }) ⟨hi.1, hi.2.1, hv hi.2.2⟩ h
  · exact abort_inv hi h

/-- Every instruction keeps the invariant. -/
theorem exec_inv {i : Instr} {s t : State} (hi : Inv s) (h : exec i s = .next t) : Inv t := by
  obtain ⟨x, hx, hr⟩ := exec_kept i s
  rw [hx] at h
  obtain rfl | ⟨c, rfl, habort⟩ | ⟨c, rfl, rfl⟩ := State.run_next.1 h
  · exact done_inv hi hr
  · exact abort_inv (aborted_inv hi (KeepStep.inv hr hi)) habort
  · exact .resetEvent (hr.1.inv hi).1

/-! ## Steps -/

theorem begin_inv {s : State} (hi : Inv s) : Inv s.latchNmi.arm.begin := ⟨hi.1, putFlag_reserved _ _ hi.2.1, hi.2.2⟩

/-- What is taken at fetch keeps the invariant. -/
theorem undecoded_inv {s t : State} {e : DecodeError} (hi : Inv s) (h : undecoded s e = .ok t) : Inv t := by
  unfold undecoded at h
  split at h
  · exact trap_inv hi h
  all_goals cases h

theorem undecoded_settled (s c : State) (e : DecodeError) : undecoded s e ≠ .error (.reset c) := by
  unfold undecoded
  split
  · exact (entry_settled _ _).2
  all_goals exact fun h => nomatch h

/-- What a step has to do is sound: it keeps the invariant, or runs an instruction from a state that has it. -/
def SoundStart : Start → Prop
  | .over x => ∀ t, finish x = .next t → Inv t
  | .taken x => (∀ s, x = .ok s → Inv s) ∧ ∀ c, x ≠ .error (.reset c)
  | .run _ s => Inv s

theorem fetchStart_sound {s : State} (hi : Inv s) : SoundStart (fetchStart s) := by
  unfold fetchStart
  split
  · exact ⟨nofun, nofun⟩
  · split
    · exact ⟨fun _ => trap_inv hi, fun c => (entry_settled _ c).2⟩
    · split
      · exact hi
      · exact ⟨fun _ => undecoded_inv hi, fun c => undecoded_settled s c _⟩

theorem prepare_sound {s : State} (hi : Inv s) : SoundStart (prepare s) := by
  unfold prepare
  split
  · intro t h
    cases h
    exact .resetEvent hi.1
  · dsimp only
    split
    · intro t h
      obtain h | ⟨c, h, -⟩ := finish_next.1 h
      · exact complete_inv (s := { s.latchNmi.arm with interlock := false }) hi h
      · exact absurd h (complete_settled _ c _)
    · split
      · exact ⟨fun _ => abort_inv (aborted_inv (begin_inv hi) (begin_inv hi)), fun c => State.abort_settled _ c⟩
      · exact fetchStart_sound (begin_inv hi)

/-- Settles O6, from the instructions, each of which keeps the state or traps, over the start and the end of a step. -/
theorem invKept : Obligations.InvKept := by
  intro s t hi h
  have hs := prepare_sound hi
  unfold step at h
  generalize prepare s = p at h hs
  cases p with
  | taken x => exact finish_complete_inv hs.1 hs.2 h
  | run i s1 =>
    dsimp only at h
    cases he : exec i s1 with
    | next s2 =>
      rw [he] at h
      obtain h | ⟨c, h, -⟩ := finish_next.1 h
      · exact complete_inv (exec_inv hs he) h
      · exact absurd h (complete_settled _ c _)
    | fault e => rw [he] at h; cases h
    | refused e => rw [he] at h; cases h
  | _ => exact hs t h

/-- Settles O15: the instructions keep the privileged state, trap or are aborted; each of these entries leaves INTBASE, CFG
and the MMU registers. -/
theorem userModeProtected : Obligations.UserModeProtected := by
  intro i s t hreset hu h
  obtain ⟨x, hx, hr⟩ := exec_kept i s
  rw [hx] at h
  obtain rfl | ⟨c, rfl, habort⟩ | ⟨c, rfl, -⟩ := State.run_next.1 h
  · obtain hk | ⟨k, v, -, htrap⟩ | ⟨hu', -⟩ := (hr : Done s t)
    · obtain ⟨-, -, -, -, hint, hcfg, hmmu, -⟩ := hk.priv hu
      exact ⟨hint, hcfg, hmmu, .inl (hk.priv hu)⟩
    · obtain ⟨hint, hcfg, hmmu⟩ := takeException_system (s := { s with fsr := v }) hreset htrap
      exact ⟨hint, hcfg, hmmu, .inr (.inl ⟨k, v, htrap⟩)⟩
    · exact absurd (hu'.symm.trans hu) (by decide)
  · have hc : c.cut.reset = none := KeepStep.reset hr hreset
    obtain ⟨-, hcut, -, -, -, -, -, ⟨⟨-, -, hint, -⟩, ⟨hcfg, hmmu, -⟩, -⟩, -⟩ := State.aborted_frame s c
    obtain ⟨hint', hcfg', hmmu'⟩ := takeException_system (by rw [hcut]; exact hc) habort
    exact ⟨hint'.trans hint, hcfg'.trans hcfg, hmmu'.trans hmmu, .inr (.inr ⟨c, habort⟩)⟩
  · have hc := hr.1.reset hreset
    rw [hr.2] at hc
    cases hc

/-- Settles O7, at the fixed state. -/
theorem invReset : Obligations.InvReset := ⟨reset_mem_wf, by decide, by decide⟩

end Sys2Proof.Machine
end

section
/-! PROOFS. Around an instruction: the start of a step, fetch and decode, waiting, the acceptance point and what an
instruction is refused for (60_exceptions.md R505, R512, R515, R541, R543). -/
namespace Sys2Proof.Machine

/-! ## The start of a step -/

/-- A step that neither Reset, waiting nor an aborted fetch takes over fetches an instruction (R15). -/
theorem prepare_fetches {s : State} (hr : s.input.cut.reset ≠ some 0) (hw : s.waiting = false)
    (ha : s.input.cut.abort ≠ some .fetch) : prepare s = fetchStart s.latchNmi.arm.begin := by
  rw [prepare, if_neg hr]
  dsimp only
  rw [if_neg (by simp [hw])]
  exact if_neg ha

/-- Bytes that decode at an enabled slave are run. -/
theorem fetchStart_runs {s : State} {i : Instr} {b : Byte} {r rest : List Byte} (hf : s.fetchBytes = b :: r)
    (hs : slaveDisabled s b = false) (hd : decode (b :: r) = .ok (i, rest)) : fetchStart s = .run i s := by
  simp only [fetchStart, hf, hs, hd]
  rfl

/-- Bytes of a slave that is not enabled, or to which no instruction is assigned, take Trap (UND) (R182, R543). -/
theorem fetchStart_undefined {s : State} {b : Byte} {r : List Byte} (hf : s.fetchBytes = b :: r)
    (h : slaveDisabled s b = true ∨ decode (b :: r) = .error .undefinedInstruction) :
    fetchStart s = .taken (s.trap .und) := by
  unfold fetchStart
  rw [hf]
  dsimp only
  cases hs : slaveDisabled s b with
  | true => rfl
  | false =>
    obtain h | hd := h
    · exact absurd (hs.symm.trans h) (by decide)
    · rw [hd]
      rfl

/-- Settles O4, over `prepare_fetches`. -/
theorem stepRunsDecoded : Obligations.StepRunsDecoded := by
  intro s i b r rest hr hw ha hf hs hd
  have hp : prepare s = .run i s.latchNmi.arm.begin :=
    (prepare_fetches hr hw ha).trans (fetchStart_runs (s := s.latchNmi.arm.begin) hf hs hd)
  rw [step, hp] <;> rfl

/-! ## Instructions in memory -/

/-- The bytes fetched start with what stands in memory clear of the devices. -/
theorem fetchFrom_prefix {m : Memory} {l : List Byte} {a n : Nat}
    (h : ∀ k < l.length, some (m.read (a + k)) = l[k]? ∧ a + k ≠ 0xFFFE00 ∧ a + k ≠ 0xFFFF00)
    (hin : a + l.length ≤ Config.memSize) (hn : l.length ≤ n) : ∃ rest, fetchFrom m a n = l ++ rest := by
  induction l generalizing a n with
  | nil => exact ⟨_, rfl⟩
  | cons b l ih =>
    obtain ⟨n, rfl⟩ : ∃ k, n = k + 1 := ⟨n - 1, by simp only [List.length_cons] at hn; omega⟩
    simp only [List.length_cons] at hin hn h
    obtain ⟨rest, hrest⟩ := ih (a := a + 1) (n := n) (fun k hk => by
      have hk1 := h (k + 1) (by omega)
      rw [Nat.add_right_comm, Nat.add_assoc]
      simpa using hk1) (by omega) (by omega)
    obtain ⟨hb, h1, h2⟩ := h 0 (by omega)
    have hd : (decide (Config.memSize ≤ a) || isDevice a) = false := by
      simp only [isDevice, Bool.or_eq_false_iff, decide_eq_false_iff_not]
      exact ⟨by omega, h1, h2⟩
    refine ⟨rest, ?_⟩
    rw [fetchFrom, hd, hrest]
    simpa using hb

/-- The slave of a first byte is enabled (R543). -/
theorem slaveDisabled_false {s : State} {b : Byte} (hf : b = 0x3E ∨ b = 0xBE → s.cfg.getLsbD 1 = true)
    (hm : b = 0x1E → s.cfg.getLsbD 2 = true) (hc : b = 0x16 ∨ b = 0x36 ∨ b = 0xB6 → s.cfg.getLsbD 3 = true) :
    slaveDisabled s b = false := by
  simp only [slaveDisabled, State.cfgF, State.cfgM, State.cfgC, Bool.or_eq_false_iff, Bool.and_eq_false_iff,
    Bool.not_eq_false', beq_eq_false_iff_ne]
  refine ⟨⟨?_, ?_⟩, ?_⟩
  · by_cases h : b = 0x3E ∨ b = 0xBE
    · exact .inr (hf h)
    · exact .inl ⟨fun e => h (.inr e), fun e => h (.inl e)⟩
  · by_cases h : b = 0x1E
    · exact .inr (hm h)
    · exact .inl h
  · by_cases h : b = 0x16 ∨ b = 0x36 ∨ b = 0xB6
    · exact .inr (hc h)
    · exact .inl ⟨⟨fun e => h (.inl e), fun e => h (.inr (.inl e))⟩, fun e => h (.inr (.inr e))⟩

/-- Settles O5: the fetched bytes start with the encoding, which decodes to the instruction (O1), so O4 applies. -/
theorem stepRunsStored : Obligations.StepRunsStored := by
  intro s i hi hr hw ha hin hbytes hf hm hc
  obtain ⟨rest, hrest⟩ := fetchFrom_prefix hbytes hin (lengthBounds i).2
  have hlen := (lengthBounds i).1
  have hd := decodeEncode.1 i rest hi
  unfold instrLength at hlen
  generalize encode i = l at hrest hf hm hc hd hlen
  cases l with
  | nil => exact absurd hlen (by decide)
  | cons b l =>
    simp only [List.head?_cons, Option.some.injEq] at hf hm hc
    exact stepRunsDecoded s i b (l ++ rest) rest hr hw ha hrest (slaveDisabled_false hf hm hc) hd

/-! ## Unassigned encodings -/

/-- The unassigned op fields of format G (R173). -/
theorem decodeG_undefined {op i g : Nat} {r : List Byte} (h : op ∈ [1, 3, 5, 7, 8, 9, 11, 13, 15]) :
    decodeG op i g r = .error .undefinedInstruction := by
  simp only [List.mem_cons, List.not_mem_nil, or_false] at h
  obtain rfl | rfl | rfl | rfl | rfl | rfl | rfl | rfl | rfl := h <;> rfl

/-- First bytes of format G (R173): bits 6 to 4 are 7. -/
theorem decode_formatG_undefined {b b1 : Byte} {r : List Byte}
    (hb : b ∈ ([0x7C, 0x7D, 0x7F, 0xFC, 0xFD, 0xFF] : List Byte))
    (h : (b.toNat + 256 * b1.toNat) / 128 % 16 ∈ [1, 3, 5, 7, 8, 9, 11, 13, 15]) :
    decode (b :: b1 :: r) = .error .undefinedInstruction := by
  have first : ∀ c ∈ ([0x7C, 0x7D, 0x7F, 0xFC, 0xFD, 0xFF] : List Byte),
      c.toNat % 4 ≠ 2 ∧ c.toNat / 4 % 4 = 3 ∧ c.toNat / 16 % 8 = 7 := by decide
  obtain ⟨h2, h3, h7⟩ := first b hb
  have hop : (b.toNat + 256 * b1.toNat) / 16 % 8 = 7 := by omega
  unfold decode
  dsimp only
  rw [if_neg h2, if_pos h3, hop]
  exact decodeG_undefined h

/-- First bytes to which no instruction is assigned (R182). -/
theorem decode_first_undefined {b : Byte} (r : List Byte) (hb : b ∈ ([0x06, 0x26, 0x46, 0x56, 0x66, 0x76, 0x86, 0x96,
    0xA6, 0xC6, 0xD6, 0xE6, 0xF6, 0x5E, 0x7E, 0x8E, 0x9E, 0xDE, 0xFE] : List Byte)) :
    decode (b :: r) = .error .undefinedInstruction := by
  simp only [List.mem_cons, List.not_mem_nil, or_false] at hb
  obtain rfl | rfl | rfl | rfl | rfl | rfl | rfl | rfl | rfl | rfl | rfl | rfl | rfl | rfl | rfl | rfl | rfl | rfl |
    rfl := hb <;> rfl

/-- The unassigned op fields of the 3-byte formats (R174, R176 to R179). -/
def Unassigned3 (b : Byte) (op reg : Nat) : Prop :=
  (b = 0x0E ∧ 4 ≤ op) ∨ (b = 0x1E ∧ 4 ≤ op) ∨ (b = 0x4E ∧ (op = 4 ∨ op = 10)) ∨ (b = 0xCE ∧ op = 10) ∨
    (b = 0xBE ∧ op ∈ [6, 7, 10, 11, 14, 15]) ∨ (b = 0xEE ∧ op % 2 = 1) ∨
    (b = 0xAE ∧ op % 2 = 1 ∧ reg ≠ 1 ∧ reg ≠ 3)

section ThreeBytes
variable {w : Nat} (r : List Byte)

theorem decode0E_undefined (h : 4 ≤ w / 1024 % 16) : decode0E w r = .error .undefinedInstruction := by
  unfold decode0E
  generalize w / 1024 % 16 = op at h
  match op with
  | n + 4 => rfl

theorem decode1E_undefined (h : 4 ≤ w / 1024 % 16) : decode1E w r = .error .undefinedInstruction := by
  unfold decode1E
  generalize w / 1024 % 16 = op at h
  match op with
  | n + 4 => rfl

theorem decode4E_undefined (h : w / 1024 % 16 = 4 ∨ w / 1024 % 16 = 10) :
    decode4E w r = .error .undefinedInstruction := by
  unfold decode4E
  obtain h | h := h <;> rw [h] <;> rfl

theorem decodeCE_undefined (h : w / 1024 % 16 = 10) : decodeCE w r = .error .undefinedInstruction := by
  unfold decodeCE
  rw [h]
  rfl

theorem decodeBE_undefined (h : w / 1024 % 16 ∈ [6, 7, 10, 11, 14, 15]) :
    decodeBE w r = .error .undefinedInstruction := by
  unfold decodeBE
  simp only [List.mem_cons, List.not_mem_nil, or_false] at h
  obtain h | h | h | h | h | h := h <;> rw [h] <;> rfl

theorem decodeEE_undefined (h : w / 1024 % 2 = 1) : decode2E 3 w r = .error .undefinedInstruction := by
  unfold decode2E
  rw [h]
  rfl

theorem decodeAE_undefined (h : w / 1024 % 2 = 1) (h1 : w / 2048 % 8 ≠ 1) (h3 : w / 2048 % 8 ≠ 3) :
    decode2E 2 w r = .error .undefinedInstruction := by
  unfold decode2E
  rw [h]
  generalize w / 2048 % 8 = rg at h1 h3
  match rg with
  | 0 | 2 => rfl
  | 1 => exact absurd rfl h1
  | 3 => exact absurd rfl h3
  | n + 4 => rfl

theorem decode_three_undefined {b b1 b2 : Byte} {r : List Byte}
    (h : Unassigned3 b (b1.toNat / 4 % 16) (b1.toNat / 8 % 8)) :
    decode (b :: b1 :: b2 :: r) = .error .undefinedInstruction := by
  have op (c : Nat) (hc : c < 256) : (c + 256 * b1.toNat + 65536 * b2.toNat) / 1024 % 16 = b1.toNat / 4 % 16 := by
    omega
  have odd (c : Nat) (hc : c < 256) : (c + 256 * b1.toNat + 65536 * b2.toNat) / 1024 % 2 = b1.toNat / 4 % 16 % 2 := by
    omega
  have reg (c : Nat) (hc : c < 256) : (c + 256 * b1.toNat + 65536 * b2.toNat) / 2048 % 8 = b1.toNat / 8 % 8 := by
    omega
  obtain ⟨rfl, h⟩ | ⟨rfl, h⟩ | ⟨rfl, h⟩ | ⟨rfl, h⟩ | ⟨rfl, h⟩ | ⟨rfl, h⟩ | ⟨rfl, h, h1, h3⟩ := h
  · exact decode0E_undefined r (by rw [op _ (by decide)]; exact h)
  · exact decode1E_undefined r (by rw [op _ (by decide)]; exact h)
  · exact decode4E_undefined r (by rw [op _ (by decide)]; exact h)
  · exact decodeCE_undefined r (by rw [op _ (by decide)]; exact h)
  · exact decodeBE_undefined r (by rw [op _ (by decide)]; exact h)
  · exact decodeEE_undefined r (by rw [odd _ (by decide)]; exact h)
  · exact decodeAE_undefined r (by rw [odd _ (by decide)]; exact h) (by rw [reg _ (by decide)]; exact h1)
      (by rw [reg _ (by decide)]; exact h3)

end ThreeBytes

/-- A first byte whose slave is not enabled (R543). -/
theorem slaveDisabled_true {s : State} {b : Byte}
    (h : ((b = 0x3E ∨ b = 0xBE) ∧ s.cfg.getLsbD 1 = false) ∨ (b = 0x1E ∧ s.cfg.getLsbD 2 = false) ∨
      ((b = 0x16 ∨ b = 0x36 ∨ b = 0xB6) ∧ s.cfg.getLsbD 3 = false)) : slaveDisabled s b = true := by
  unfold slaveDisabled State.cfgF State.cfgM State.cfgC
  obtain ⟨rfl | rfl, h⟩ | ⟨rfl, h⟩ | ⟨rfl | rfl | rfl, h⟩ := h <;> rw [h] <;> simp

/-- Settles O8: each of the listed encodings is of a slave that is not enabled or decodes to no instruction. -/
theorem undefinedTraps : Obligations.UndefinedTraps := by
  intro s b r hr hw ha hf h
  have hu : slaveDisabled s b = true ∨ decode (b :: r) = .error .undefinedInstruction := by
    obtain h | h | h | h | ⟨h, b1, r', rfl, hop⟩ | ⟨b1, b2, r', op, reg, rfl, rfl, rfl, h⟩ := h
    · exact .inl (slaveDisabled_true (.inl h))
    · exact .inl (slaveDisabled_true (.inr (.inl h)))
    · exact .inl (slaveDisabled_true (.inr (.inr h)))
    · exact .inr (decode_first_undefined r h)
    · exact .inr (decode_formatG_undefined h hop)
    · exact .inr (decode_three_undefined h)
  have hp : prepare s = .taken (s.latchNmi.arm.begin.trap .und) :=
    (prepare_fetches hr hw ha).trans (fetchStart_undefined (s := s.latchNmi.arm.begin) hf hu)
  rw [step, hp]

/-! ## The acceptance point -/

/-- Settles O11: the branches of `boundary`. -/
theorem boundaryOrder : Obligations.BoundaryOrder := by
  intro s u
  refine ⟨fun hn => ?_, fun hn hint hi => ?_, fun hn hint hp hw hu => ?_, fun hn hint hp => ?_⟩
  · rw [State.boundary, if_pos hn]
  · rw [State.boundary, if_neg (by simp [hn]), if_pos (by simp [hint, hi])]
  · rw [State.boundary, if_neg (by simp [hn]), if_neg (by simpa using fun h => by simpa [h] using hint),
      if_pos (by simp [hp, hw, hu])]
  · rw [State.boundary, if_neg (by simp [hn]), if_neg (by simpa using fun h => by simpa [h] using hint), if_neg]
    obtain h | h | h := hp <;> simp [h]

/-! ## Waiting -/

theorem prepare_waiting {s : State} (hr : s.input.cut.reset = none) (hw : s.waiting = true) :
    prepare s = .over (({ s.latchNmi.arm with interlock := false } : State).complete false) := by
  rw [prepare, if_neg (by simp [hr])]
  dsimp only
  rw [if_pos (by simpa using hw)]

/-- Service leaves PSR, the waiting state and the NMI latch (R519). -/
theorem service_leaves {s t : State} {v : Nat} {ra : AddrReg} (h : s.service v ra = .ok t) :
    t.psr = s.psr ∧ t.waiting = s.waiting ∧ t.nmiPending = s.nmiPending := by
  obtain ⟨s1, h1, h⟩ := Res.bind_ok h
  obtain ⟨s2, h2, h⟩ := Res.bind_ok h
  obtain ⟨d, -, h⟩ := Res.bind_ok h
  obtain ⟨-, -, rfl⟩ := State.push_ok h1
  obtain ⟨-, -, rfl⟩ := State.push_ok h2
  obtain ⟨-, rfl⟩ := State.enterProcedure_ok h
  simp

/-- What an interrupt leaves of the waiting state and of PSR (R520), where Reset does not end it. -/
theorem interrupt_leaves {s t : State} {nmi u : Bool} (hr : s.cut.reset = none) (h : s.interrupt nmi u = .ok t) :
    t.waiting = false ∧ t.cut.reset = none ∧
      Cleared [.s, .u, .t, .p, .i] (if u then putFlag s.psr .p false else s.psr) t.psr := by
  have hrun := interruptBody_runs { s with
      waiting := false
      psr := clearFlags (if u then putFlag s.psr .p false else s.psr) [.s, .u, .t, .p, .i] }
    (if u then putFlag s.psr .p false else s.psr).toNat nmi s.pc
  have hx := entry_completes hrun hr h
  have hcut : t.cut.reset = none := by
    rw [hx] at hrun
    exact KeepStep.reset hrun hr
  obtain ⟨s1, h1, hx⟩ := Res.bind_ok hx
  obtain ⟨-, -, rfl⟩ := State.push_ok h1
  have hleft : t.psr = clearFlags (if u then putFlag s.psr .p false else s.psr) [.s, .u, .t, .p, .i] ∧
      t.waiting = false := by
    cases nmi
    · obtain ⟨v, -, hx⟩ := Res.bind_ok hx
      obtain ⟨hp, hw, -⟩ := service_leaves hx
      exact ⟨by simpa using hp, by simpa using hw⟩
    · obtain ⟨b, -, hx⟩ := Res.bind_ok hx
      obtain ⟨hp, hw, -⟩ := service_leaves hx
      exact ⟨by simpa using hp, by simpa using hw⟩
  refine ⟨hleft.2, hcut, ?_⟩
  rw [hleft.1]
  exact cleared_clearFlags _ _

/-- Settles O9: while waiting a step is the acceptance point alone. -/
theorem waiting : Obligations.Waiting := by
  intro s hr hw
  rw [step, prepare_waiting hr hw]
  obtain ⟨hn, hi, -, hnone⟩ := boundaryOrder { s.latchNmi.arm with interlock := false } false
  refine ⟨fun h1 h2 h3 => ?_, fun t h4 h => ?_⟩
  · have hb := hnone (by simp [h1, h2]) h3 (.inr (.inl hw))
    have hl : ({ s.latchNmi.arm with interlock := false } : State).lateReset
        = { s.latchNmi.arm with interlock := false } := State.lateReset_none hr
    rw [State.complete, hb]
    change finish (Except.ok ({ s.latchNmi.arm with interlock := false } : State).lateReset.spend) = _
    rw [hl]
    simp [finish, State.spend, State.latchNmi, State.arm, h1, h2]
  · obtain hc | ⟨c, hc, -⟩ := finish_next.1 h
    · obtain ⟨t1, h1, hc⟩ := Res.bind_ok hc
      have hint : ∃ nmi, ({ s.latchNmi.arm with interlock := false } : State).interrupt nmi false = .ok t1 := by
        cases hp : s.nmiPending || s.input.nmiEdge with
        | true => exact ⟨true, (hn hp).symm.trans h1⟩
        | false =>
          obtain ⟨hp1, hp2⟩ := Bool.or_eq_false_iff.1 hp
          obtain h4 | h4 | ⟨h4, h5⟩ := h4
          · exact absurd (hp1.symm.trans h4) (by decide)
          · exact absurd (hp2.symm.trans h4) (by decide)
          · exact ⟨false, (hi hp h4 h5).symm.trans h1⟩
      obtain ⟨nmi, hint⟩ := hint
      obtain ⟨hwait, hcut, hclear⟩ := interrupt_leaves hr hint
      cases hc
      rw [State.lateReset_none hcut]
      exact ⟨hwait, hclear .u, hclear .s, hclear .i⟩
    · exact absurd hc (complete_settled _ _ _)

/-! ## Privileged instructions -/

theorem ifUser_ill {s : State} (hu : s.flag .u = true) (x : Res State) :
    s.run (if s.flag .u then s.trap .ill else x) = finish (s.trap .ill) := by
  rw [if_pos hu, State.run_trap]

theorem mmuGuard_ill {s : State} (hm : s.cfgM = true) (hu : s.flag .u = true) (x : Res State) :
    s.run (mmuGuard s x) = finish (s.trap .ill) := by
  rw [mmuGuard, if_neg (by simp [hm]), if_pos hu, State.run_trap]

theorem procReg_ill {s : State} {p : ProcReg} (hp : privilegedReg p = true) (hu : s.flag .u = true) (x : Res State) :
    s.run (if privilegedReg p && s.flag .u then s.trap .ill else x) = finish (s.trap .ill) := by
  rw [if_pos (by rw [hp, hu]; rfl), State.run_trap]

theorem psrShape_ill {s : State} (hu : s.flag .u = true) (ins : Instr) (src : Gen) (f : Word → Word → Word) :
    s.run (psrShape .w ins src f s) = finish (s.trap .ill) := by
  rw [psrShape, if_neg (by decide), if_pos ⟨rfl, hu⟩, State.run_trap]

/-- Settles O16: each body starts with its check of U. -/
theorem privilegedTraps : Obligations.PrivilegedTraps := by
  intro s i d c m a b hu
  exact ⟨ifUser_ill hu _, ifUser_ill hu _, ifUser_ill hu _, ifUser_ill hu _, ifUser_ill hu _, procReg_ill rfl hu _,
    procReg_ill rfl hu _, procReg_ill rfl hu _, procReg_ill rfl hu _, psrShape_ill hu _ _ _, psrShape_ill hu _ _ _,
    fun hm => ⟨mmuGuard_ill hm hu _, mmuGuard_ill hm hu _, mmuGuard_ill hm hu _, mmuGuard_ill hm hu _⟩⟩

end Sys2Proof.Machine
end

section
/-! PROOFS. Several registers on a stack: what SAVE and ENTER push, cut short or not (48_processor_service.md R443,
10_state.md R501, 60_exceptions.md R524). -/
namespace Sys2Proof.Machine

/-! ## The values pushed -/

/-- The registers of a list, in the order they are pushed (R443). -/
def listedRegs (l : Byte) (ns : List (Fin 8)) : List (Fin 8) := ns.filter fun n => l.getLsbD n.val

/-- Push values of four bytes, one after the other. -/
def pushAll : List Nat → State → Res State
  | [], s => .ok s
  | v :: vs, s => s.push 4 v >>= pushAll vs

/-- Memory once values of four bytes are pushed below an address. -/
def stackedMem : Memory → Nat → List Nat → Memory
  | m, _, [] => m
  | m, a, v :: vs => stackedMem (m.writeLE (a - 4) 4 v) (a - 4) vs

/-- SAVE pushes the values of its registers as they are when it starts (R443). -/
theorem saveRegs_eq_pushAll (l : Byte) (ns : List (Fin 8)) (s : State) :
    saveRegs l ns s = pushAll ((listedRegs l ns).map fun n => s.r[n].toNat) s := by
  induction ns generalizing s with
  | nil => rfl
  | cons n ns ih =>
    unfold saveRegs listedRegs
    cases hn : l.getLsbD n.val with
    | false =>
      rw [List.filter_cons_of_neg (p := fun n : Fin 8 => l.getLsbD n.val) (by rw [hn]; decide)]
      exact ih s
    | true =>
      rw [List.filter_cons_of_pos (p := fun n : Fin 8 => l.getLsbD n.val) hn, List.map_cons, pushAll]
      cases hp : s.push 4 s.r[n].toNat with
      | error e => rfl
      | ok t =>
        have hr : t.r = s.r := by
          rw [(State.push_ok hp).2.2]
          simp
        change saveRegs l ns t = pushAll _ t
        rw [ih t, hr]
        rfl

/-- The bits of a register list below n are those of the first n registers. -/
theorem listedBelow_eq (l : Byte) {n : Nat} (hn : n ≤ 8) :
    listedBelow l n = (listedRegs l (listBits.take n)).length := by
  have hr : ∀ k : Fin 9, List.range k.val = (listBits.take k.val).map Fin.val := by decide
  rw [listedBelow, hr ⟨n, by omega⟩, List.filter_map, List.length_map]
  rfl

theorem listedBelow_eight (l : Byte) : listedBelow l 8 = (listedRegs l listBits).length :=
  listedBelow_eq l (Nat.le_refl 8)

/-- A listed register comes after those listed below it. -/
theorem listedRegs_getElem? (l : Byte) (n : Fin 8) (hn : l.getLsbD n.val = true) :
    (listedRegs l listBits)[listedBelow l n.val]? = some n := by
  have hsplit : ∀ k : Fin 8, listBits = listBits.take k.val ++ k :: listBits.drop (k.val + 1) := by decide
  rw [listedBelow_eq l (by omega)]
  conv_lhs => rw [hsplit n]
  unfold listedRegs
  rw [List.filter_append, List.filter_cons_of_pos (by simpa using hn), ← hsplit n,
    List.getElem?_append_right (Nat.le_refl _), Nat.sub_self]
  rfl

/-- One more register is listed above a listed one. -/
theorem listedBelow_succ (l : Byte) (n : Nat) :
    listedBelow l (n + 1) = listedBelow l n + if l.getLsbD n then 1 else 0 := by
  unfold listedBelow
  rw [List.range_succ, List.filter_append, List.length_append]
  cases hn : l.getLsbD n <;> simp [hn]

/-- Lists of bits only grow. -/
theorem listedBelow_mono (l : Byte) {m n : Nat} (h : m ≤ n) : listedBelow l m ≤ listedBelow l n := by
  induction n, h using Nat.le_induction with
  | base => exact Nat.le_refl _
  | succ n _ ih =>
    rw [listedBelow_succ]
    omega

/-- A listed register is counted among all. -/
theorem listedBelow_lt (l : Byte) (n : Fin 8) (hn : l.getLsbD n.val = true) :
    listedBelow l n.val + 1 = listedBelow l (n.val + 1) ∧ listedBelow l (n.val + 1) ≤ listedBelow l 8 := by
  refine ⟨?_, listedBelow_mono l (by omega)⟩
  rw [listedBelow_succ, hn]
  rfl

/-! ## Memory under the pushed values -/

section StackedMem
variable {m : Memory} {a : Nat} {vs : List Nat}

theorem stackedMem_wf (hm : m.wf = true) (hv : 4 * vs.length ≤ a) (ha : a ≤ Config.memSize) :
    (stackedMem m a vs).wf = true := by
  induction vs generalizing m a with
  | nil => exact hm
  | cons v vs ih =>
    simp only [List.length_cons] at hv
    exact ih (Memory.wf_writeLE hm (by omega)) (by omega) (by omega)

theorem stackedMem_outside (hm : m.wf = true) (hv : 4 * vs.length ≤ a) (ha : a ≤ Config.memSize) {x : Nat}
    (hx : x < a - 4 * vs.length ∨ a ≤ x) : (stackedMem m a vs).read x = m.read x := by
  induction vs generalizing m a with
  | nil => rfl
  | cons v vs ih =>
    simp only [List.length_cons] at hv hx
    rw [stackedMem, ih (Memory.wf_writeLE hm (by omega)) (by omega) (by omega) (by omega),
      Memory.read_writeLE_outside hm (by omega) (by omega)]

theorem stackedMem_value (hm : m.wf = true) (hv : 4 * vs.length ≤ a) (ha : a ≤ Config.memSize) {j v : Nat}
    (hj : vs[j]? = some v) (h32 : v < 2 ^ 32) : (stackedMem m a vs).readLE (a - 4 * (j + 1)) 4 = v := by
  induction vs generalizing m a j with
  | nil => cases hj
  | cons w vs ih =>
    simp only [List.length_cons] at hv
    have hw := Memory.wf_writeLE (a := a - 4) (n := 4) (v := w) hm (by omega)
    cases j with
    | zero =>
      obtain rfl : w = v := by simpa using hj
      have houtside : (stackedMem (m.writeLE (a - 4) 4 w) (a - 4) vs).readLE (a - 4) 4
          = (m.writeLE (a - 4) 4 w).readLE (a - 4) 4 :=
        Memory.readLE_congr fun x h1 _ => stackedMem_outside hw (by omega) (by omega) (.inr h1)
      rw [stackedMem, houtside, Memory.readLE_writeLE hm (by omega)]
      omega
    | succ j =>
      have hat := ih hw (a := a - 4) (by omega) (by omega) (by simpa using hj)
      rw [stackedMem, show a - 4 * (j + 1 + 1) = a - 4 - 4 * (j + 1) by omega]
      exact hat

end StackedMem

/-! ## Pushes that are cut short -/

/-- What cuts a step short at the write that follows `k` more: an abort of it, or Reset before it. -/
inductive CutAt : Nat → Cut → Prop
  | abort (k : Nat) : CutAt k { abort := some (.write k), reset := none }
  | reset (k : Nat) : CutAt k { abort := none, reset := some k }

theorem CutAt.wrote {k : Nat} {c : Cut} (h : CutAt (k + 1) c) : CutAt k c.wrote := by
  cases h with
  | abort => exact .abort k
  | reset => exact .reset k

/-- How a write in state `c` stops where it is cut short. -/
def cutStop (c : State) : Stop := if c.cut.reset = none then .abort c else .reset c

/-- A write that is cut short stores nothing. -/
theorem memWrite_cut {s : State} (h : CutAt 0 s.cut) (a : Dword) (n v : Nat) :
    s.memWrite a n v = .error (cutStop s) := by
  unfold State.memWrite cutStop State.abortsWrite
  generalize hc : s.cut = c at h
  cases h with
  | abort => simp
  | reset => simp

theorem push_cut {s : State} (h : CutAt 0 s.cut) {n : Nat} (v : Nat) (hn : n ≤ s.sp.toNat) :
    s.push n v = .error (cutStop (s.setSp (BitVec.ofNat 24 (s.sp.toNat - n)))) := by
  unfold State.push
  rw [if_neg (by omega)]
  exact memWrite_cut (by simpa using h) _ _ _

/-- A write before the one that is cut short is made. -/
theorem memWrite_before {s : State} {k : Nat} (h : CutAt (k + 1) s.cut) {a : Dword} {n : Nat} (v : Nat)
    (hc : checkAccess a.toNat n = .ok ()) :
    s.memWrite a n v = .ok { s with mem := s.mem.writeLE a.toNat n v, cut := s.cut.wrote } := by
  refine State.memWrite_ok.2 ⟨?_, hc, rfl⟩
  unfold State.abortsWrite
  generalize s.cut = c at h
  cases h with
  | abort => simp
  | reset => simp

/-- Memory and stack pointer after a push that is allowed and not cut short, whatever is to come. -/
theorem push_of_memWrite {s : State} {n : Nat} (v : Nat) (hn : n ≤ s.sp.toNat)
    (hc : checkAccess (s.sp.toNat - n) n = .ok ())
    (hw : ∀ t : State, t.cut = s.cut → ∀ a : Dword, checkAccess a.toNat n = .ok () →
      t.memWrite a n v = .ok { t with mem := t.mem.writeLE a.toNat n v, cut := t.cut.wrote }) :
    s.push n v = .ok { s.setSp (BitVec.ofNat 24 (s.sp.toNat - n)) with
      mem := s.mem.writeLE (s.sp.toNat - n) n v, cut := s.cut.wrote } := by
  have ha : (ext24 (BitVec.ofNat 24 (s.sp.toNat - n))).toNat = s.sp.toNat - n := by
    have := s.sp.isLt
    rw [ext24_toNat, BitVec.toNat_ofNat]
    omega
  have hm := hw (s.setSp (BitVec.ofNat 24 (s.sp.toNat - n))) (by simp) (ext24 (BitVec.ofNat 24 (s.sp.toNat - n)))
    (by rw [ha]; exact hc)
  rw [ha, State.setSp_mem, State.setSp_cut] at hm
  unfold State.push
  rw [if_neg (by omega)]
  exact hm

/-- `s` with the selected stack pointer lowered by `k` bytes, memory `m` and `c` still to come. -/
def State.lowered (s : State) (k : Nat) (m : Memory) (c : Cut) : State :=
  { s.setSp (BitVec.ofNat 24 (s.sp.toNat - k)) with mem := m, cut := c }

theorem State.lowered_sp (s : State) (k : Nat) (m : Memory) (c : Cut) :
    (s.lowered k m c).sp.toNat = s.sp.toNat - k := by
  have hs : (s.lowered k m c).sp = BitVec.ofNat 24 (s.sp.toNat - k) :=
    State.setSp_sp s (BitVec.ofNat 24 (s.sp.toNat - k))
  have := s.sp.isLt
  rw [hs, BitVec.toNat_ofNat]
  omega

/-- What is lowered twice is lowered once. -/
theorem State.lowered_lowered (s : State) (j k : Nat) (m n : Memory) (c d : Cut) :
    (s.lowered j m c).lowered k n d = s.lowered (j + k) n d := by
  unfold State.lowered
  rw [show ({ s.setSp (BitVec.ofNat 24 (s.sp.toNat - j)) with mem := m, cut := c } : State).sp.toNat - k
    = s.sp.toNat - (j + k) by
      have := State.lowered_sp s j m c
      unfold State.lowered at this
      omega]
  unfold State.setSp
  cases hs : s.flag .s with
  | true =>
    have : ∀ t : State, t.psr = s.psr → t.flag .s = true := fun t ht => by rw [State.flag, ht]; exact hs
    simp [this]
  | false =>
    have : ∀ t : State, t.psr = s.psr → t.flag .s = false := fun t ht => by rw [State.flag, ht]; exact hs
    simp [this]

/-- Pushes with nothing to come. -/
theorem pushAll_never {vs : List Nat} {s : State} (hx : s.cut = .never) (hn : 4 * vs.length ≤ s.sp.toNat)
    (hc : checkAccess (s.sp.toNat - 4 * vs.length) (4 * vs.length) = .ok ()) :
    pushAll vs s = .ok (s.lowered (4 * vs.length) (stackedMem s.mem s.sp.toNat vs) .never) := by
  induction vs generalizing s with
  | nil =>
    have hsp : s.setSp (BitVec.ofNat 24 s.sp.toNat) = s := by
      rw [BitVec.ofNat_toNat, BitVec.setWidth_eq]
      unfold State.setSp State.sp
      split <;> rfl
    simp only [pushAll, List.length_nil, Nat.mul_zero, State.lowered, Nat.sub_zero, hsp, stackedMem, ← hx]
  | cons v vs ih =>
    simp only [List.length_cons] at hn hc ⊢
    have hpush : s.push 4 v = .ok (s.lowered 4 (s.mem.writeLE (s.sp.toNat - 4) 4 v) .never) := by
      rw [State.push_never v hx (by omega) (checkAccess_part hc (by omega) (by omega)), State.lowered]
      simp [hx]
    have hrest := ih (s := s.lowered 4 (s.mem.writeLE (s.sp.toNat - 4) 4 v) .never) rfl
      (by rw [State.lowered_sp]; omega)
      (by rw [State.lowered_sp]; exact checkAccess_part hc (by omega) (by omega))
    rw [State.lowered_lowered, State.lowered_sp] at hrest
    rw [pushAll, hpush]
    change pushAll vs _ = _
    rw [hrest]
    congr 2
    omega

/-- Pushes of which one is cut short: those before it are made. -/
theorem pushAll_cut {vs : List Nat} {s : State} {k : Nat} (hx : CutAt k s.cut) (hk : k < vs.length)
    (hn : 4 * vs.length ≤ s.sp.toNat)
    (hc : checkAccess (s.sp.toNat - 4 * vs.length) (4 * vs.length) = .ok ()) :
    ∃ c, CutAt 0 c ∧ (c.reset = none ↔ s.cut.reset = none) ∧ pushAll vs s =
      .error (cutStop (s.lowered (4 * (k + 1)) (stackedMem s.mem s.sp.toNat (vs.take k)) c)) := by
  induction vs generalizing s k with
  | nil => cases hk
  | cons v vs ih =>
    simp only [List.length_cons] at hn hc hk
    cases k with
    | zero =>
      refine ⟨s.cut, hx, Iff.rfl, ?_⟩
      rw [pushAll, push_cut hx v (by omega), State.lowered]
      simp [stackedMem, State.setSp]
      split <;> rfl
    | succ k =>
      have hpush : s.push 4 v = .ok (s.lowered 4 (s.mem.writeLE (s.sp.toNat - 4) 4 v) s.cut.wrote) :=
        push_of_memWrite v (by omega) (checkAccess_part hc (by omega) (by omega))
          fun t ht a ha => memWrite_before (by rw [ht]; exact hx) v ha
      obtain ⟨c, h0, hreset, hrest⟩ := ih (s := s.lowered 4 (s.mem.writeLE (s.sp.toNat - 4) 4 v) s.cut.wrote)
        hx.wrote (by omega) (by rw [State.lowered_sp]; omega)
        (by rw [State.lowered_sp]; exact checkAccess_part hc (by omega) (by omega))
      rw [State.lowered_lowered, State.lowered_sp] at hrest
      refine ⟨c, h0, hreset.trans (by simp [State.lowered, Cut.wrote]), ?_⟩
      rw [pushAll, hpush]
      change pushAll vs _ = _
      rw [hrest]
      congr 3
      omega

end Sys2Proof.Machine
end

section
/-! PROOFS. Exceptions: traps, Trace, Abort and interrupts that are taken, and what Reset and aborts leave of them and of
SAVE (60_exceptions.md R501, R506 to R511, R519 to R526). -/
namespace Sys2Proof.Machine

/-! ## Traps -/

/-- Settles O12: every trap is taken where it is ready. -/
theorem trapEntry : Obligations.TrapEntry := by
  intro s k n hkn hw hready
  obtain rfl : n = trapVector k := by
    revert hkn
    cases k <;> simp [trapVector]
  exact State.trap_ready hw hready

/-! ## PSR images -/

/-- Two PSR values with the same flags and the same reserved bits are equal. -/
theorem psr_ext {v w : Word} (hf : ∀ k, flag w k = flag v k) (hr : w &&& 0xF018 = v &&& 0xF018) : w = v := by
  have flags : ∀ n : Fin 16, (0xF018#16).getLsbD n.val = false → ∃ k : Flag, flagBit k = n.val := by
    intro n hn
    have all : ∀ n : Fin 16, (0xF018#16).getLsbD n.val = false →
        n.val ∈ [Flag.c, .t, .l, .f, .z, .n, .u, .s, .p, .i].map flagBit := by decide
    obtain ⟨k, -, hk⟩ := List.mem_map.1 (all n hn)
    exact ⟨k, hk⟩
  change w &&& 0xF018#16 = v &&& 0xF018#16 at hr
  refine BitVec.eq_of_getLsbD_eq fun n hn => ?_
  cases hb : (0xF018#16).getLsbD n with
  | true =>
    have := congrArg (fun x : Word => x.getLsbD n) hr
    simpa only [BitVec.getLsbD_and, hb, Bool.and_true] using this
  | false =>
    obtain ⟨k, hk⟩ := flags ⟨n, hn⟩ hb
    have := hf k
    rwa [flag, flag, hk] at this

/-- The image that an entry saves where P is to be clear in it (R522, R524). -/
theorem image_eq {v w : Word} (hc : Cleared [.p] v w) (hr : w &&& 0xF018 = v &&& 0xF018) : w = putFlag v .p false := by
  refine psr_ext (fun k => ?_) ?_
  · rw [hc k]
    by_cases hk : k = .p
    · subst hk
      simp
    · simp [hk]
  · have hm : ~~~(1#16 <<< flagBit .p) &&& 0xF018#16 = 0xF018#16 := by decide
    rw [hr, putFlag, if_neg (by decide), BitVec.and_assoc]
    exact congrArg (v &&& ·) hm.symm

/-- The image an interrupt saves (R506). -/
theorem interruptImage_eq {v w : Word} {u : Bool} (hc : Cleared (if u then [.p] else []) v w)
    (hr : w &&& 0xF018 = v &&& 0xF018) : w = if u then putFlag v .p false else v := by
  cases u
  · exact psr_ext (fun k => by simpa using hc k) hr
  · exact image_eq hc hr

/-- Flags cleared one set after the other. -/
theorem Cleared.then {js ks : List Flag} {u v w : Word} (h : Cleared js u v) (h' : Cleared ks v w) :
    Cleared (js ++ ks) u w := by
  intro k
  rw [h' k, h k]
  by_cases h1 : k ∈ js <;> by_cases h2 : k ∈ ks <;> simp [h1, h2]

theorem Cleared.congr {js ks : List Flag} {v w : Word} (h : Cleared js v w) (hk : ∀ k, k ∈ js ↔ k ∈ ks) :
    Cleared ks v w := by
  intro k
  rw [h k]
  simp only [hk k]

/-- An entry with an image that clears P and a PSR that clears more (R522, R524). -/
theorem takeException_image {s : State} {w : Word} {ks : List Flag} {n : Nat} (hw : s.mem.wf = true)
    (hs : .s ∈ ks) (h : ExceptionReady s w n s.pc.toNat) (hc : Cleared [.p] s.psr w) :
    ∃ t, s.takeException w (clearFlags w ks) n s.pc = .ok t ∧ ExceptionTaken s w n s.pc.toNat t ∧
      Cleared (.p :: ks) s.psr t.psr ∧ t.waiting = s.waiting ∧ t.nmiPending = s.nmiPending := by
  have hcleared := cleared_clearFlags ks w
  have hra : s.pc.toNat < 2 ^ 32 := by have := s.pc.isLt; omega
  have htake := State.takeException_ready (psr := clearFlags w ks) (by rw [hcleared .s, if_pos hs]) h
  obtain ⟨-, hroom, -⟩ := h
  exact ⟨_, htake, exceptionTaken_inProcedure hw hroom hra, hc.then hcleared, rfl, rfl⟩

theorem traceAbort_ready {s : State} {w : Word} (hw : s.mem.wf = true) (hc : Cleared [.p] s.psr w)
    (hr : w &&& 0xF018 = s.psr &&& 0xF018) :
    (ExceptionReady s w 9 s.pc.toNat → ∃ t, s.traceTrap = .ok t ∧ ExceptionTaken s w 9 s.pc.toNat t ∧
      Cleared [.p, .s, .u, .t] s.psr t.psr ∧ t.waiting = s.waiting ∧ t.nmiPending = s.nmiPending) ∧
    (ExceptionReady s w 2 s.pc.toNat → ∃ t, s.abort = .ok t ∧ ExceptionTaken s w 2 s.pc.toNat t ∧
      Cleared [.p, .s, .u, .t, .i] s.psr t.psr ∧ t.waiting = s.waiting ∧ t.nmiPending = s.nmiPending) := by
  obtain rfl := image_eq hc hr
  exact ⟨fun h => takeException_image (ks := [.s, .u, .t]) hw (by decide) h hc,
    fun h => takeException_image (ks := [.s, .u, .t, .i]) hw (by decide) h hc⟩

/-! ## Aborts of the references of an instruction -/

/-- Nothing but memory is left of an instruction that changed neither general registers nor PSR (R524). -/
theorem State.aborted_eq {s c : State} (hr : c.r = s.r) (hp : c.psr = s.psr) :
    s.aborted c = { s with mem := c.mem, freeCount := c.freeCount, cut := { abort := none, reset := c.cut.reset } } := by
  unfold State.aborted
  dsimp only
  rw [if_pos ⟨hr, hp⟩]

/-- An aborted reference is the Abort trap of the instruction (R524). -/
theorem State.run_abort (s c : State) : s.run (.error (.abort c)) = finish (s.aborted c).abort := rfl

/-- MOVi reads its source and then writes its destination (R224). -/
theorem exec_movi (i : IntLen) (src dst : Gen) (s : State) : exec (.movi i src dst) s =
    s.run (readOp .int i.bytes s s src >>= fun p => locateWrite .int i.bytes s p.2 dst >>= fun q =>
      q.2.deliver s.psr i.bytes p.1 q.1 >>= fun t => .ok (t.advance (.movi i src dst))) := rfl

/-- An operand in memory is read there. -/
theorem readOp_mem {b : Bank} {n : Nat} {s0 s : State} {g : Gen} {l : Loc} (hg : g ≠ .mode .tos)
    (hl : locate b s0 s g = .ok l) : readOp b n s0 s g = s.readLoc n l >>= fun v => .ok (v, s) := by
  have located : (locate b s0 s g >>= fun l => s.readLoc n l >>= fun v => Except.ok (v, s))
      = s.readLoc n l >>= fun v => .ok (v, s) := by rw [hl]; rfl
  cases g with
  | imm v => cases hl
  | scaled sc m x => exact located
  | mode m =>
    cases m with
    | tos => exact absurd rfl hg
    | _ => exact located

theorem movi_readAborted {s : State} {i : IntLen} {src : Gen} (dst : Gen) {a : Dword} {x : Nat}
    (hcut : s.cut = { abort := some (.read 0 x), reset := none }) (hsrc : src ≠ .mode .tos)
    (hl : locate .int s s src = .ok (.mem a)) (h1 : a.toNat ≤ x) (h2 : x < a.toNat + i.bytes) :
    exec (.movi i src dst) s = finish ({ s with cut := .never } : State).abort := by
  have ha : s.abortsRead a.toNat i.bytes = true := by
    simp [State.abortsRead, hcut, covers, h1, h2]
  have hread : readOp .int i.bytes s s src = .error (.abort s) := by
    rw [readOp_mem hsrc hl, State.readLoc, State.memRead, if_pos ha]
    rfl
  rw [exec_movi, hread]
  change s.run (.error (.abort s)) = _
  rw [State.run_abort, State.aborted_eq rfl rfl, hcut]
  rfl

theorem movi_writeAborted {s s1 s2 : State} {i : IntLen} {src dst : Gen} {v : Nat} {a : Dword}
    (hcut : s.cut = { abort := some (.write 0), reset := none }) (hv : readOp .int i.bytes s s src = .ok (v, s1))
    (hl : locateWrite .int i.bytes s s1 dst = .ok (.mem a, s2)) :
    exec (.movi i src dst) s = finish ({ s with cut := .never, freeCount := s2.freeCount } : State).abort := by
  obtain ⟨hr2, -, hm2, hp2, -, -, hc2, -⟩ := locateWrite_frame hl
  obtain ⟨hr1, -, hm1, hp1, -⟩ := readOp_frame hv
  have hc1 : s1.cut = { abort := some (.write 0), reset := none } := by
    rw [readOp_ok hv]
    split
    · simp [hcut, Cut.popped, AbortPoint.popped]
    · exact hcut
  have hdeliver : s2.deliver s.psr i.bytes v (.mem a) = .error (.abort { s2 with psr := s.psr }) := by
    rw [State.deliver, State.writeLoc, State.memWrite, if_neg (by simp [hc2, hc1]),
      if_pos (by simp [State.abortsWrite, hc2, hc1])]
  rw [exec_movi, hv]
  change s.run (locateWrite .int i.bytes s s1 dst >>= _) = _
  rw [hl]
  change s.run (s2.deliver s.psr i.bytes v (.mem a) >>= _) = _
  rw [hdeliver]
  change s.run (.error (.abort _)) = _
  rw [State.run_abort, State.aborted_eq (c := { s2 with psr := s.psr }) (hr2.trans hr1) rfl]
  simp only [hm2, hm1, hc2, hc1, Cut.never]

/-! ## SAVE cut short -/

/-- The values that SAVE pushes. -/
def savedValues (l : Byte) (s : State) : List Nat := (listedRegs l listBits).map fun n => s.r[n].toNat

theorem savedValues_length (l : Byte) (s : State) : (savedValues l s).length = listedBelow l 8 := by
  rw [savedValues, List.length_map, listedBelow_eight]

theorem savedValues_getElem? (l : Byte) (s : State) (n : Fin 8) (hn : l.getLsbD n.val = true) :
    (savedValues l s)[listedBelow l n.val]? = some s.r[n].toNat := by
  rw [savedValues, List.getElem?_map, listedRegs_getElem? l n hn]
  rfl

theorem exec_save (l : Byte) (s : State) :
    exec (.save l) s = s.run (pushAll (savedValues l s) s >>= fun t => .ok (t.advance (.save l))) := by
  rw [savedValues, ← saveRegs_eq_pushAll]
  rfl

/-- Memory after the first k pushes of SAVE (R443). -/
theorem partlySaved_stacked {l : Byte} {k : Nat} {s : State} (hw : s.mem.wf = true) (hk : k ≤ listedBelow l 8)
    (hn : 4 * listedBelow l 8 ≤ s.sp.toNat) :
    PartlySaved l k s (stackedMem s.mem s.sp.toNat ((savedValues l s).take k)) := by
  have hlen : ((savedValues l s).take k).length = k := by
    rw [List.length_take, savedValues_length]
    omega
  have hin : s.sp.toNat ≤ Config.memSize := by
    have := s.sp.isLt
    simp only [Config.memSize]
    omega
  refine ⟨stackedMem_wf hw (by omega) hin, fun n hln hlt => ?_, fun x hx =>
    stackedMem_outside hw (by omega) hin (by rw [hlen]; exact hx)⟩
  rw [← (listedBelow_lt l n hln).1]
  refine stackedMem_value hw (by omega) hin ?_ (s.r[n].isLt)
  rw [List.getElem?_take, if_pos hlt]
  exact savedValues_getElem? l s n hln

/-- How SAVE stops where its push after k others is cut short. -/
theorem save_cut {l : Byte} {s : State} {k : Nat} (hx : CutAt k s.cut) (hk : k < listedBelow l 8)
    (hn : 4 * listedBelow l 8 ≤ s.sp.toNat)
    (hc : checkAccess (s.sp.toNat - 4 * listedBelow l 8) (4 * listedBelow l 8) = .ok ()) :
    ∃ c, CutAt 0 c ∧ (c.reset = none ↔ s.cut.reset = none) ∧ exec (.save l) s = s.run (.error (cutStop
      (s.lowered (4 * (k + 1)) (stackedMem s.mem s.sp.toNat ((savedValues l s).take k)) c))) := by
  rw [← savedValues_length l s] at hk hn hc
  obtain ⟨c, h0, hreset, hpush⟩ := pushAll_cut hx hk hn hc
  refine ⟨c, h0, hreset, ?_⟩
  rw [exec_save, hpush]
  rfl

theorem cutStop_abort {c : State} (h : c.cut.reset = none) : cutStop c = .abort c := if_pos h

theorem cutStop_reset {c : State} (h : c.cut.reset ≠ none) : cutStop c = .reset c := if_neg h

theorem save_aborted {l : Byte} {s : State} {k : Nat} (hw : s.mem.wf = true)
    (hcut : s.cut = { abort := some (.write k), reset := none }) (hk : k < listedBelow l 8)
    (hn : 4 * listedBelow l 8 ≤ s.sp.toNat)
    (hc : checkAccess (s.sp.toNat - 4 * listedBelow l 8) (4 * listedBelow l 8) = .ok ()) :
    ∃ m : Memory, exec (.save l) s = finish ({ s with mem := m, cut := .never } : State).abort ∧ PartlySaved l k s m := by
  obtain ⟨c, h0, hreset, he⟩ := save_cut (by rw [hcut]; exact .abort k) hk hn hc
  have hr : c.reset = none := hreset.2 (by rw [hcut])
  refine ⟨_, ?_, partlySaved_stacked hw hk.le hn⟩
  rw [he, cutStop_abort hr, State.run_abort, State.aborted_eq (by simp [State.lowered]) (by simp [State.lowered])]
  simp [State.lowered, hr, Cut.never]

/-! ## Entries cut short -/

/-- A push that is allowed and comes before the one that is cut short. -/
theorem push_before {s : State} {k n : Nat} (v : Nat) (hx : CutAt (k + 1) s.cut) (hn : n ≤ s.sp.toNat)
    (hc : checkAccess (s.sp.toNat - n) n = .ok ()) :
    s.push n v = .ok (s.lowered n (s.mem.writeLE (s.sp.toNat - n) n v) s.cut.wrote) :=
  push_of_memWrite v hn hc fun _ ht _ ha => memWrite_before (by rw [ht]; exact hx) v ha

/-- Service stops where one of its two pushes is cut short. -/
theorem service_cut {s : State} {k v : Nat} {ra : AddrReg} (hx : CutAt k s.cut) (hk : k < 2) (hn : 6 ≤ s.sp.toNat)
    (hc : checkAccess (s.sp.toNat - 6) 6 = .ok ()) : ∃ c : State, CutAt 0 c.cut ∧ s.service v ra = .error (cutStop c) := by
  unfold State.service
  match k with
  | 0 =>
    rw [push_cut hx _ (by omega)]
    exact ⟨_, by simpa using hx, rfl⟩
  | 1 =>
    rw [push_before _ hx (by omega) (checkAccess_part hc (by omega) (by omega))]
    change ∃ c : State, CutAt 0 c.cut ∧ (State.push _ _ _ >>= _) = _
    rw [push_cut hx.wrote _ (by rw [State.lowered_sp]; omega)]
    exact ⟨_, by simpa [State.lowered] using hx.wrote, rfl⟩

/-- An entry whose pushes have room stops where one of them is cut short. -/
theorem entryPushes_cut {s : State} {k v : Nat} {ra : AddrReg} (image : Nat) (hx : CutAt k s.cut) (hk : k < 3)
    (hn : 8 ≤ s.sp.toNat) (hc : checkAccess (s.sp.toNat - 8) 8 = .ok ()) :
    ∃ c : State, CutAt 0 c.cut ∧ (s.push 2 image >>= fun t => t.service v ra) = .error (cutStop c) := by
  cases k with
  | zero =>
    rw [push_cut hx _ (by omega)]
    exact ⟨_, by simpa using hx, rfl⟩
  | succ k =>
    rw [push_before _ hx (by omega) (checkAccess_part hc (by omega) (by omega))]
    exact service_cut (s := s.lowered 2 _ _) hx.wrote (by omega) (by rw [State.lowered_sp]; omega)
      (by rw [State.lowered_sp]; exact checkAccess_part hc (by omega) (by omega))

/-- A trap with an aborted push stops (R526; log 35). -/
theorem trap_aborted {s : State} (e : TrapKind) {k : Nat}
    (hcut : s.cut = { abort := some (.write k), reset := none }) (hk : k < 3) (hn : 8 ≤ s.sp0.toNat)
    (hc : checkAccess (s.sp0.toNat - 8) 8 = .ok ()) : finish (s.trap e) = .fault .entryAborted := by
  let s' : State := { s with psr := clearFlags s.psr [.s, .u, .p, .t] }
  have hflag : s'.flag .s = false := (cleared_clearFlags [.s, .u, .p, .t] s.psr .s).trans (if_pos (by decide))
  have hsp : s'.sp = s.sp0 := by
    rw [State.sp, hflag]
    rfl
  have hrun := pushService_runs s' s.psr.toNat (trapVector e) s.pc
  obtain ⟨c, -, hbody⟩ := entryPushes_cut (s := s') (v := trapVector e) (ra := s.pc) s.psr.toNat
    (by rw [show s'.cut = _ from hcut]; exact .abort k) hk (by rw [hsp]; exact hn) (by rw [hsp]; exact hc)
  have hreset : c.cut.reset = none := by
    rw [hbody] at hrun
    by_contra h
    rw [cutStop_reset h] at hrun
    exact h (hrun.1.reset (by rw [show s'.cut = _ from hcut]))
  rw [State.trap, State.takeException]
  change finish (entry (s'.push 2 s.psr.toNat >>= fun t => t.service (trapVector e) s.pc)) = _
  rw [hbody, cutStop_abort hreset]
  rfl

/-- An aborted fetch is the Abort trap from the start of the step. -/
theorem step_fetchAborted {s : State} (hr : s.input.cut.reset ≠ some 0) (hw : s.waiting = false)
    (ha : s.input.cut.abort = some .fetch) :
    step s = finish (({ s.latchNmi.arm.begin with
      cut := { abort := none, reset := s.input.cut.reset } } : State).abort.bind (fun t => t.complete false)) := by
  have hp : prepare s = .taken (s.latchNmi.arm.begin.settle (.error (.abort s.latchNmi.arm.begin))) := by
    rw [prepare, if_neg hr]
    dsimp only
    rw [if_neg (by simp [hw])]
    exact if_pos ha
  rw [step, hp]
  change finish (((s.latchNmi.arm.begin.aborted s.latchNmi.arm.begin).abort).bind _) = _
  rw [State.aborted_eq rfl rfl]
  rfl

/-- Settles O13: the two entries, then each aborted reference in turn. -/
theorem traceAbortEntry : Obligations.TraceAbortEntry :=
  ⟨fun _ _ hw hc hr => traceAbort_ready hw hc hr, fun _ hr hw ha => step_fetchAborted hr hw ha,
    fun _ _ _ dst _ _ hcut hsrc hl h1 h2 => movi_readAborted dst hcut hsrc hl h1 h2,
    fun _ _ _ _ _ _ _ _ hcut hv hl => movi_writeAborted hcut hv hl,
    fun _ _ _ hw hcut hk hn hc => save_aborted hw hcut hk hn hc,
    fun _ e _ hcut hk hn hc => trap_aborted e hcut hk hn hc⟩

/-! ## Interrupts -/

/-- Service completes over a PSR image that is pushed already (R519). -/
theorem service_ready {s : State} {image : Word} {v : Nat} {ra : AddrReg} (hs : s.flag .s = false)
    (h : ExceptionReady s image v ra.toNat) :
    s.push 2 image.toNat = .ok (s.stacked 2 (s.mem.writeLE (s.sp0.toNat - 2) 2 image.toNat)) ∧
      (s.stacked 2 (s.mem.writeLE (s.sp0.toNat - 2) 2 image.toNat)).service v ra =
        .ok ((s.stacked 8 (framePushed s image ra.toNat)).inProcedure (vectorDescriptor s image v ra.toNat)) := by
  obtain ⟨hx, hn, hc, hv, hd⟩ := h
  refine ⟨State.push_sp0 _ hx hs (Nat.le_trans (by decide) hn) (checkAccess_part hc (by omega) (by omega)), ?_⟩
  have hsp := State.stacked_sp0 s 2 (s.mem.writeLE (s.sp0.toNat - 2) 2 image.toNat)
  have hframe : servicePushed (s.stacked 2 (s.mem.writeLE (s.sp0.toNat - 2) 2 image.toNat)) ra.toNat
      = framePushed s image ra.toNat := by
    rw [servicePushed, framePushed, hsp, Nat.sub_sub, Nat.sub_sub]
    rfl
  have hservice := State.service_never (s := s.stacked 2 (s.mem.writeLE (s.sp0.toNat - 2) 2 image.toNat)) (v := v)
    (ra := ra) hx hs (by omega) (checkAccess_part hc (by omega) (by omega)) hv (by rw [hframe]; exact hd)
  rwa [hframe, State.stacked_stacked] at hservice

theorem byte_toInt_nonneg {b : Byte} : 0 ≤ b.toInt ↔ b.toNat < 128 := by
  rw [BitVec.toInt_eq_toNat_cond]
  have := b.isLt
  split <;> omega

/-- The vector of a maskable interrupt (R506, R508, R520). -/
theorem intVector_eq {s : State} {n : Nat} (hx : s.cut = .never)
    (h : (s.cfg.getLsbD 0 = false ∧ n = 0) ∨
      (s.cfg.getLsbD 0 = true ∧ s.input.ackByte.toNat < 128 ∧ n = s.input.ackByte.toNat) ∨
      (s.cfg.getLsbD 0 = true ∧ 128 ≤ s.input.ackByte.toNat ∧
        (∃ b, s.input.cascadeByte = some b ∧ n = b.toNat) ∧ ∃ a, s.cascadeAddress s.input.ackByte = .ok a)) :
    s.intVector = .ok n := by
  have hdev (a : Nat) (b : Byte) : s.deviceRead a b = .ok b :=
    State.deviceRead_ok.2 ⟨State.abortsRead_none hx _ _, rfl⟩
  unfold State.intVector
  rw [hdev]
  change (if s.cfgI then if 0 ≤ s.input.ackByte.toInt then Except.ok s.input.ackByte.toNat
    else s.cascadeAddress s.input.ackByte >>= s.cascadeRead else .ok 0) = _
  obtain ⟨hi, rfl⟩ | ⟨hi, hb, rfl⟩ | ⟨hi, hb, ⟨b, hcb, rfl⟩, a, ha⟩ := h
  · rw [if_neg (by rw [State.cfgI, hi]; decide)]
  · rw [if_pos (show s.cfgI = true from hi), if_pos (byte_toInt_nonneg.2 hb)]
  · rw [if_pos (show s.cfgI = true from hi), if_neg (by rw [byte_toInt_nonneg]; omega), ha]
    change s.cascadeRead a = _
    unfold State.cascadeRead
    rw [hcb]
    dsimp only
    rw [hdev]
    rfl

/-- A Cascade Address depends on memory and INTBASE alone where no abort is to come. -/
theorem cascadeAddress_congr {s t : State} (hs : s.cut = .never) (ht : t.cut = .never) (hi : t.intbase = s.intbase)
    (hm : t.mem = s.mem) (b : Byte) : t.cascadeAddress b = s.cascadeAddress b := by
  have hr (a : Dword) (n : Nat) : t.memRead a n = s.memRead a n := by
    simp [State.memRead, hs, ht, hm]
  unfold State.cascadeAddress
  rw [hi, hr]

/-- Settles O14: the image is pushed, the vector acquired, and Service completes as for a trap. -/
theorem interruptEntry : Obligations.InterruptEntry := by
  intro s w u nmi n hw hclear hres hn hready
  obtain rfl := interruptImage_eq hclear hres
  generalize himage : (if u then putFlag s.psr .p false else s.psr) = image at *
  let s' : State := { s with waiting := false, psr := clearFlags image [.s, .u, .t, .p, .i] }
  have hflag : s'.flag .s = false := (cleared_clearFlags [.s, .u, .t, .p, .i] image .s).trans (if_pos (by decide))
  obtain ⟨hpush, hservice⟩ := service_ready (s := s') hflag hready
  have hra : s.pc.toNat < 2 ^ 32 := by have := s.pc.isLt; omega
  have htaken := exceptionTaken_inProcedure (image := image) (psr := s'.psr) (v := n) hw hready.2.1 hra
  have hcl : Cleared [.s, .u, .t, .p, .i] s.psr (clearFlags image [.s, .u, .t, .p, .i]) := by
    refine (hclear.then (cleared_clearFlags [.s, .u, .t, .p, .i] image)).congr fun k => ?_
    cases u <;> cases k <;> decide
  have hx : s.cut = .never := hready.1
  have hdev (t : State) (ht : t.cut = .never) (a : Nat) (b : Byte) : t.deviceRead a b = .ok b :=
    State.deviceRead_ok.2 ⟨State.abortsRead_none ht _ _, rfl⟩
  rw [State.interrupt, himage]
  change ∃ t, entry (s'.push 2 image.toNat >>= fun s1 =>
      if nmi then s1.deviceRead Config.nmiAckAddr 0 >>= fun _ => ({ s1 with nmiPending := false } : State).service 1 s.pc
      else s1.intVector >>= fun v => s1.service v s.pc) = .ok t ∧ _
  rw [hpush]
  cases nmi with
  | true =>
    obtain rfl : n = 1 := by simpa using hn
    refine ⟨{ (s'.stacked 8 (framePushed s' image s.pc.toNat)).inProcedure (vectorDescriptor s' image 1 s.pc.toNat)
      with nmiPending := false }, ?_, htaken, hcl, rfl, by simp⟩
    obtain ⟨-, hnmi⟩ := service_ready (s := { s' with nmiPending := false }) hflag hready
    change entry ((s'.stacked 2 _).deviceRead _ 0 >>= _) = _
    rw [hdev (s'.stacked 2 _) hx]
    exact congrArg entry hnmi
  | false =>
    refine ⟨(s'.stacked 8 (framePushed s' image s.pc.toNat)).inProcedure (vectorDescriptor s' image n s.pc.toNat),
      ?_, htaken, hcl, rfl, by simp [s', State.inProcedure, State.stacked]⟩
    have hvec : (s'.stacked 2 (s'.mem.writeLE (s'.sp0.toNat - 2) 2 image.toNat)).intVector = .ok n := by
      refine intVector_eq hx ?_
      obtain h | ⟨-, h⟩ | ⟨-, h⟩ | ⟨-, h1, h2, h3, a, ha⟩ := hn
      · exact absurd h.1 (by decide)
      · exact .inl h
      · exact .inr (.inl h)
      · have hsame : (s'.stacked 2 (s'.mem.writeLE (s'.sp0.toNat - 2) 2 image.toNat)).cascadeAddress s.input.ackByte =
            ({ s with mem := s.mem.writeLE (s.sp0.toNat - 2) 2 image.toNat } : State).cascadeAddress s.input.ackByte :=
          by
            refine cascadeAddress_congr ?_ ?_ ?_ ?_ _
            exacts [hx, hx, rfl, rfl]
        exact .inr (.inr ⟨h1, h2, h3, a, hsame.trans ha⟩)
    change entry ((s'.stacked 2 _).intVector >>= _) = _
    rw [hvec]
    exact congrArg entry hservice

end Sys2Proof.Machine
end

section
/-! PROOFS. Reset as an event: before a step, inside SAVE and at the end of a step (10_state.md R501, R560). -/
namespace Sys2Proof.Machine

/-! ## What Reset cannot come from -/

/-- A part of an instruction without a write: Reset does not arrive in it. -/
def NoReset {α : Type} (x : Res α) : Prop := ∀ c, x ≠ .error (.reset c)

theorem NoReset.bind {α β : Type} {x : Res α} {f : α → Res β} (hx : NoReset x) (hf : ∀ a, x = .ok a → NoReset (f a)) :
    NoReset (x >>= f) := by
  cases x with
  | ok a => exact hf a rfl
  | error e => exact fun c h => hx c (by cases h; rfl)

theorem NoReset.ok {α : Type} (a : α) : NoReset (.ok a : Res α) := nofun

theorem checkAccess_noReset (a n : Nat) : NoReset (checkAccess a n) := fun c h => by
  obtain ⟨f, hf⟩ := checkAccess_stops h
  cases hf

theorem memRead_noReset (s : State) (a : Dword) (n : Nat) : NoReset (s.memRead a n) := by
  unfold State.memRead
  split
  · exact nofun
  · exact (checkAccess_noReset _ _).bind fun _ _ => .ok _

theorem deviceRead_noReset (s : State) (a : Nat) (b : Byte) : NoReset (s.deviceRead a b) := by
  unfold State.deviceRead
  split
  · exact nofun
  · exact nofun

theorem moduleAddr_noReset (m : Word) : NoReset (moduleAddr m) := by
  unfold moduleAddr
  split
  · exact nofun
  · exact nofun

theorem enterProcedure_noReset (s : State) (d : Nat) : NoReset (s.enterProcedure d) := by
  refine NoReset.bind ?_ fun s1 _ => (moduleAddr_noReset _).bind fun _ _ => (memRead_noReset _ _ _).bind fun _ _ => .ok _
  exact (moduleAddr_noReset _).bind fun _ _ => (memRead_noReset _ _ _).bind fun _ _ => .ok _

theorem intVector_noReset (s : State) : NoReset s.intVector := by
  have cascade (b : Byte) : NoReset (s.cascadeAddress b) := by
    unfold State.cascadeAddress
    split
    · exact nofun
    · refine (memRead_noReset _ _ _).bind fun a _ => ?_
      split
      · exact nofun
      · exact nofun
  have atAddress (a : Dword) : NoReset (s.cascadeRead a) := by
    unfold State.cascadeRead
    split
    · exact (deviceRead_noReset _ _ _).bind fun _ _ => .ok _
    · exact memRead_noReset _ _ _
  refine (deviceRead_noReset _ _ _).bind fun b _ => ?_
  split
  · split
    · exact nofun
    · exact (cascade b).bind fun a _ => atAddress a
  · exact nofun

/-! ## Pushes with a Reset to come -/

/-- Where Reset is still to come, a push is one of the writes it waits for. -/
theorem push_awaits {s t : State} {n v k : Nat} (hr : s.cut.reset = some k) (h : s.push n v = .ok t) :
    ∃ j, k = j + 1 ∧ t.cut.reset = some j := by
  obtain ⟨-, -, rfl⟩ := State.push_ok h
  unfold State.push at h
  split at h
  · cases h
  · obtain ⟨⟨hne, -⟩, -⟩ := State.memWrite_ok.1 h
    rw [State.setSp_cut, hr] at hne
    cases k with
    | zero => exact absurd rfl hne
    | succ j => exact ⟨j, rfl, by simp [Cut.wrote, hr]⟩

/-- A push that Reset comes before stores nothing. -/
theorem push_reset {s c : State} {n v : Nat} (h : s.push n v = .error (.reset c)) :
    s.cut.reset = some 0 ∧ c.mem = s.mem ∧ c.env = s.env := by
  unfold State.push at h
  split at h
  · cases h
  · dsimp only [State.memWrite] at h
    split at h
    · rename_i hr
      cases h
      exact ⟨by simpa using hr, by simp, by simp⟩
    · split at h
      · cases h
      · exact absurd h (((checkAccess_noReset _ _).bind fun _ _ => .ok _) c)

/-- With PSR.S clear, what a push on the Interrupt Stack changes. -/
theorem push_sp0_ok {s t : State} {n v : Nat} (hs : s.flag .s = false) (h : s.push n v = .ok t) :
    n ≤ s.sp0.toNat ∧ t.sp0.toNat = s.sp0.toNat - n ∧ t.mem = s.mem.writeLE (s.sp0.toNat - n) n v ∧
      t.flag .s = false ∧ t.env = s.env ∧ t.mod = s.mod := by
  obtain ⟨hn, -, rfl⟩ := State.push_ok h
  have hsp : s.sp = s.sp0 := by simp [State.sp, hs]
  rw [hsp] at hn ⊢
  have := s.sp0.isLt
  refine ⟨hn, ?_, rfl, by simpa [State.flag] using hs, by simp, by simp⟩
  simp only [State.setSp_sp0, hs]
  rw [if_neg (by decide), BitVec.toNat_ofNat]
  omega

theorem service_tail_noReset (s : State) (a : Dword) : NoReset (s.memRead a 4 >>= s.enterProcedure) :=
  (memRead_noReset _ _ _).bind fun d _ => enterProcedure_noReset _ d

theorem service_awaits {s t : State} {v k : Nat} {ra : AddrReg} (hs : s.flag .s = false) (hr : s.cut.reset = some k)
    (h : s.service v ra = .ok t) : 6 ≤ s.sp0.toNat ∧ t.mem = servicePushed s ra.toNat ∧ t.env = s.env ∧
      ∃ j, k = j + 2 ∧ t.cut.reset = some j := by
  obtain ⟨s1, h1, h⟩ := Res.bind_ok h
  obtain ⟨s2, h2, h⟩ := Res.bind_ok h
  obtain ⟨d, -, h⟩ := Res.bind_ok h
  obtain ⟨hn1, hsp1, hm1, hf1, he1, -⟩ := push_sp0_ok hs h1
  obtain ⟨hn2, -, hm2, -, he2, -⟩ := push_sp0_ok hf1 h2
  obtain ⟨j1, rfl, hr1⟩ := push_awaits hr h1
  obtain ⟨j2, rfl, hr2⟩ := push_awaits hr1 h2
  obtain ⟨-, rfl⟩ := State.enterProcedure_ok h
  refine ⟨by omega, ?_, he2.trans he1, j2, rfl, hr2⟩
  change s2.mem = _
  rw [hm2, hm1, hsp1, Nat.sub_sub]
  rfl

theorem service_reset {s c : State} {v k : Nat} {ra : AddrReg} (hs : s.flag .s = false) (hr : s.cut.reset = some k)
    (h : s.service v ra = .error (.reset c)) : c.env = s.env ∧ ((k = 0 ∧ c.mem = s.mem) ∨
      (k = 1 ∧ 2 ≤ s.sp0.toNat ∧ c.mem = s.mem.writeLE (s.sp0.toNat - 2) 2 s.mod.toNat)) := by
  unfold State.service at h
  cases h1 : s.push 2 s.mod.toNat with
  | error e =>
    rw [h1] at h
    cases h
    obtain ⟨h0, hm, he⟩ := push_reset h1
    rw [hr] at h0
    exact ⟨he, .inl ⟨Option.some.inj h0, hm⟩⟩
  | ok s1 =>
    rw [h1] at h
    obtain ⟨hn1, -, hm1, -, he1, -⟩ := push_sp0_ok hs h1
    obtain ⟨j, rfl, hr1⟩ := push_awaits hr h1
    change (s1.push 4 ra.toNat >>= fun s2 => s2.memRead _ 4 >>= s2.enterProcedure) = _ at h
    cases h2 : s1.push 4 ra.toNat with
    | error e =>
      rw [h2] at h
      cases h
      obtain ⟨h0, hm, he⟩ := push_reset h2
      rw [hr1] at h0
      cases h0
      exact ⟨he.trans he1, .inr ⟨rfl, hn1, hm.trans hm1⟩⟩
    | ok s2 =>
      rw [h2] at h
      exact absurd h (service_tail_noReset s2 _ c)

/-! ## The frame as far as it is pushed -/

section Frame
variable {s : State} {w : Word} {m : Memory}

theorem partlyFramed_zero (hw : s.mem.wf = true) : PartlyFramed s w 0 s.mem :=
  ⟨hw, nofun, nofun, nofun, fun _ _ => rfl⟩

theorem partlyFramed_one (hw : s.mem.wf = true) (hn : 2 ≤ s.sp0.toNat) :
    PartlyFramed s w 1 (s.mem.writeLE (s.sp0.toNat - 2) 2 w.toNat) := by
  have hsp := s.sp0.isLt
  have hin : s.sp0.toNat - 2 + 2 ≤ Config.memSize := by simp only [Config.memSize]; omega
  refine ⟨Memory.wf_writeLE hw hin, fun _ => ?_, by omega, by omega, fun x hx => ?_⟩
  · rw [Memory.readLE_writeLE hw hin]
    have := w.isLt
    omega
  · simp only [pushedBytes, if_neg Nat.one_ne_zero, if_pos] at hx
    exact Memory.read_writeLE_outside hw hin (by omega)

theorem partlyFramed_two (hw : s.mem.wf = true) (hn : 4 ≤ s.sp0.toNat) : PartlyFramed s w 2
    ((s.mem.writeLE (s.sp0.toNat - 2) 2 w.toNat).writeLE (s.sp0.toNat - 4) 2 s.mod.toNat) := by
  have hsp := s.sp0.isLt
  have hin : s.sp0.toNat - 4 + 2 ≤ Config.memSize := by simp only [Config.memSize]; omega
  obtain ⟨hwf, hone, -, -, hout⟩ := partlyFramed_one (w := w) hw (by omega)
  refine ⟨Memory.wf_writeLE hwf hin, fun _ => ?_, fun _ => ?_, by omega, fun x hx => ?_⟩
  · rw [Memory.readLE_writeLE_outside hwf hin (by omega)]
    exact hone (by decide)
  · rw [Memory.readLE_writeLE hwf hin]
    have := s.mod.isLt
    omega
  · have htwo : pushedBytes 2 = 4 := rfl
    have hone : pushedBytes 1 = 2 := rfl
    rw [htwo] at hx
    rw [Memory.read_writeLE_outside hwf hin (by omega)]
    exact hout x (by omega)

theorem partlyFramed_all (hw : s.mem.wf = true) (hn : 8 ≤ s.sp0.toNat) (j : Nat) :
    PartlyFramed s w (j + 3) (framePushed s w s.pc.toNat) := by
  have hsp := s.sp0.isLt
  obtain ⟨himage, hmod, hret, hout⟩ := framePushed_reads (image := w) (ra := s.pc.toNat) hw hn
    (by have := s.pc.isLt; omega)
  have hin : s.sp0.toNat ≤ Config.memSize := by simp only [Config.memSize]; omega
  refine ⟨Memory.wf_writeLE (Memory.wf_writeLE (Memory.wf_writeLE hw (by omega)) (by omega)) (by omega),
    fun _ => himage, fun _ => hmod, fun _ => hret, fun x hx => hout x ?_⟩
  simp only [pushedBytes] at hx
  rw [if_neg (by omega), if_neg (by omega), if_neg (by omega)] at hx
  omega

end Frame

/-! ## Entries with a Reset to come -/

/-- What follows the push of the image in an entry: reads, then Service. -/
def EndsInService (ra : AddrReg) (g : State → Res State) : Prop :=
  ∀ s, ∃ (α : Type) (y : Res α) (v : α → Nat) (b : Bool), NoReset y ∧
    g s = y >>= fun a => ({ s with nmiPending := b } : State).service (v a) ra

/-- An entry that Reset ends has pushed so much of its frame as its writes came before the Reset (R501, R519). -/
theorem entry_reset {s t : State} {w : Word} {k : Nat} {g : State → Res State} (hw : s.mem.wf = true)
    (hs : s.flag .s = false) (hr : s.cut.reset = some k) (hg : EndsInService s.pc g)
    (h : entry (s.push 2 w.toNat >>= g) = .ok t) :
    AfterReset t.lateReset ∧ t.lateReset.env = s.env ∧ PartlyFramed s w k t.lateReset.mem := by
  have late {c : State} (he : c.env = s.env) (hm : PartlyFramed s w k c.mem) : AfterReset c.resetEvent.lateReset ∧
      c.resetEvent.lateReset.env = s.env ∧ PartlyFramed s w k c.resetEvent.lateReset.mem := by
    rw [State.lateReset_none (s := c.resetEvent) rfl]
    exact ⟨⟨rfl, rfl, rfl, rfl, rfl⟩, he, hm⟩
  obtain h | ⟨c, hx, rfl⟩ := entry_ok.1 h
  · obtain ⟨s1, h1, h⟩ := Res.bind_ok h
    obtain ⟨α, y, v, b, -, hgs⟩ := hg s1
    rw [hgs] at h
    obtain ⟨a, -, h⟩ := Res.bind_ok h
    obtain ⟨hn1, hsp1, hm1, hf1, he1, hmod1⟩ := push_sp0_ok hs h1
    obtain ⟨j1, rfl, hr1⟩ := push_awaits hr h1
    obtain ⟨hn2, hm2, he2, j2, rfl, hr2⟩ := service_awaits (s := { s1 with nmiPending := b }) hf1 hr1 h
    rw [State.lateReset_some (by rw [hr2]; exact nofun)]
    refine ⟨⟨rfl, rfl, rfl, rfl, rfl⟩, he2.trans he1, ?_⟩
    rw [State.resetEvent_mem, hm2, servicePushed]
    dsimp only at hn2 ⊢
    rw [hsp1, hm1, hmod1, Nat.sub_sub, Nat.sub_sub]
    exact partlyFramed_all hw (by omega) j2
  · cases h1 : s.push 2 w.toNat with
    | error e =>
      rw [h1] at hx
      cases hx
      obtain ⟨h0, hm, he⟩ := push_reset h1
      rw [hr] at h0
      cases h0
      refine late he ?_
      rw [hm]
      exact partlyFramed_zero hw
    | ok s1 =>
      rw [h1] at hx
      obtain ⟨α, y, v, b, hy, hgs⟩ := hg s1
      change g s1 = _ at hx
      rw [hgs] at hx
      obtain ⟨hn1, hsp1, hm1, hf1, he1, hmod1⟩ := push_sp0_ok hs h1
      obtain ⟨j1, rfl, hr1⟩ := push_awaits hr h1
      cases y with
      | error e =>
        cases hx
        exact absurd rfl (hy c)
      | ok a =>
        obtain ⟨he2, ⟨rfl, hm2⟩ | ⟨rfl, hn2, hm2⟩⟩ := service_reset (s := { s1 with nmiPending := b }) hf1 hr1 hx
        · refine late (he2.trans he1) ?_
          rw [hm2]
          dsimp only
          rw [hm1]
          exact partlyFramed_one hw hn1
        · refine late (he2.trans he1) ?_
          rw [hm2]
          dsimp only at hn2 ⊢
          rw [hsp1, hm1, hmod1, Nat.sub_sub]
          exact partlyFramed_two hw (by omega)

theorem traceTrap_endsInService (ra : AddrReg) (v : Nat) : EndsInService ra fun t => t.service v ra := fun s =>
  ⟨Unit, .ok (), fun _ => v, s.nmiPending, .ok _, rfl⟩

theorem interrupt_endsInService (ra : AddrReg) (nmi : Bool) : EndsInService ra fun s1 =>
    if nmi then s1.deviceRead Config.nmiAckAddr 0 >>= fun _ => ({ s1 with nmiPending := false } : State).service 1 ra
    else s1.intVector >>= fun v => s1.service v ra := by
  intro s
  cases nmi with
  | true => exact ⟨Byte, s.deviceRead Config.nmiAckAddr 0, fun _ => 1, false, deviceRead_noReset _ _ _, rfl⟩
  | false => exact ⟨Nat, s.intVector, id, s.nmiPending, intVector_noReset s, rfl⟩

/-- An interrupt or the Trace trap with a Reset still to come. -/
theorem interrupt_reset {s t : State} {nmi u : Bool} {k : Nat} {w : Word} (hw : s.mem.wf = true)
    (hr : s.cut.reset = some k) (hc : Cleared (if u then [.p] else []) s.psr w)
    (hres : w &&& 0xF018 = s.psr &&& 0xF018) (h : s.interrupt nmi u = .ok t) :
    AfterReset t.lateReset ∧ t.lateReset.env = s.env ∧ PartlyFramed s w k t.lateReset.mem := by
  obtain rfl := interruptImage_eq hc hres
  exact entry_reset (s := { s with
      waiting := false
      psr := clearFlags (if u then putFlag s.psr .p false else s.psr) [.s, .u, .t, .p, .i] })
    hw ((cleared_clearFlags _ _ .s).trans (if_pos (by decide))) hr (interrupt_endsInService s.pc nmi) h

theorem traceTrap_reset {s t : State} {k : Nat} {w : Word} (hw : s.mem.wf = true)
    (hr : s.cut.reset = some k) (hc : Cleared [.p] s.psr w)
    (hres : w &&& 0xF018 = s.psr &&& 0xF018) (h : s.traceTrap = .ok t) :
    AfterReset t.lateReset ∧ t.lateReset.env = s.env ∧ PartlyFramed s w k t.lateReset.mem := by
  obtain rfl := image_eq hc hres
  exact entry_reset (s := { s with psr := clearFlags (putFlag s.psr .p false) [.s, .u, .t] })
    hw ((cleared_clearFlags _ _ .s).trans (if_pos (by decide))) hr (traceTrap_endsInService s.pc 9) h

/-- The image an interrupt saves meets what O10 asks of it. -/
theorem exists_image (v : Word) (u : Bool) :
    ∃ w : Word, Cleared (if u then [.p] else []) v w ∧ w &&& 0xF018 = v &&& 0xF018 := by
  cases u with
  | false => exact ⟨v, fun _ => by simp, rfl⟩
  | true =>
    refine ⟨putFlag v .p false, fun k => ?_, ?_⟩
    · by_cases hk : k = .p
      · subst hk
        simp
      · simp [hk]
    · have hm : ~~~(1#16 <<< flagBit .p) &&& 0xF018#16 = 0xF018#16 := by decide
      rw [putFlag, if_neg (by decide), BitVec.and_assoc]
      exact congrArg (v &&& ·) hm

theorem AfterReset.spend {t : State} (h : AfterReset t) : AfterReset t.spend := h

theorem complete_reset {s t : State} {u : Bool} {k : Nat} (hw : s.mem.wf = true) (hr : s.cut.reset = some k)
    (h : s.complete u = .ok t) : AfterReset t ∧ t.env = s.env.tail ∧
    if s.nmiPending = true ∨ (s.input.int = true ∧ s.flag .i = true) then
      ∀ w : Word, Cleared (if u then [.p] else []) s.psr w → w &&& 0xF018 = s.psr &&& 0xF018 →
        PartlyFramed s w k t.mem
    else if s.flag .p = true ∧ s.waiting = false ∧ u = false then
      ∀ w : Word, Cleared [.p] s.psr w → w &&& 0xF018 = s.psr &&& 0xF018 → PartlyFramed s w k t.mem
    else SameMemory s t := by
  obtain ⟨t1, h1, h⟩ := Res.bind_ok h
  cases h
  obtain ⟨hnmi, hint, htrace, hnone⟩ := boundaryOrder s u
  by_cases hi : s.nmiPending = true ∨ (s.input.int = true ∧ s.flag .i = true)
  · rw [if_pos hi]
    have hb : ∃ nmi, s.interrupt nmi u = .ok t1 := by
      cases hn : s.nmiPending with
      | true => exact ⟨true, (hnmi hn).symm.trans h1⟩
      | false =>
        obtain hi | ⟨h2, h3⟩ := hi
        · exact absurd (hn.symm.trans hi) (by decide)
        · exact ⟨false, (hint hn h2 h3).symm.trans h1⟩
    obtain ⟨nmi, hb⟩ := hb
    obtain ⟨w, hc, hres⟩ := exists_image s.psr u
    obtain ⟨hafter, henv, -⟩ := interrupt_reset hw hr hc hres hb
    exact ⟨hafter, congrArg List.tail henv, fun w hc hres => (interrupt_reset hw hr hc hres hb).2.2⟩
  · rw [if_neg hi]
    obtain ⟨hn, hni⟩ := not_or.1 hi
    have hn : s.nmiPending = false := Bool.eq_false_iff.2 hn
    have hni : s.input.int = false ∨ s.flag .i = false := by
      cases h2 : s.input.int with
      | false => exact .inl rfl
      | true => exact .inr (Bool.eq_false_iff.2 fun h3 => hni ⟨h2, h3⟩)
    by_cases ht : s.flag .p = true ∧ s.waiting = false ∧ u = false
    · rw [if_pos ht]
      have hb : s.traceTrap = .ok t1 := (htrace hn hni ht.1 ht.2.1 ht.2.2).symm.trans h1
      obtain ⟨w, hc, hres⟩ := exists_image s.psr true
      obtain ⟨hafter, henv, -⟩ := traceTrap_reset hw hr hc hres hb
      exact ⟨hafter, congrArg List.tail henv, fun w hc hres => (traceTrap_reset hw hr hc hres hb).2.2⟩
    · rw [if_neg ht]
      have hp : s.flag .p = false ∨ s.waiting = true ∨ u = true := by
        cases h1 : s.flag .p <;> cases h2 : s.waiting <;> cases h3 : u <;> simp_all
      obtain rfl : s = t1 := Except.ok.inj ((hnone hn hni hp).symm.trans h1)
      rw [State.lateReset_some (by rw [hr]; exact nofun)]
      exact ⟨⟨rfl, rfl, rfl, rfl, rfl⟩, rfl, fun _ => rfl⟩

/-- Reset inside SAVE, between two of its pushes (R501). -/
theorem save_reset {l : Byte} {s : State} {k : Nat} (hw : s.mem.wf = true)
    (hcut : s.cut = { abort := none, reset := some k }) (hk : k < listedBelow l 8)
    (hn : 4 * listedBelow l 8 ≤ s.sp.toNat)
    (hc : checkAccess (s.sp.toNat - 4 * listedBelow l 8) (4 * listedBelow l 8) = .ok ()) :
    ∃ t, exec (.save l) s = .next t ∧ AfterReset t ∧ PartlySaved l k s t.mem := by
  obtain ⟨c, h0, hreset, he⟩ := save_cut (by rw [hcut]; exact .reset k) hk hn hc
  have hr : c.reset ≠ none := fun h => by
    have := hreset.1 h
    rw [hcut] at this
    cases this
  refine ⟨State.resetEvent (s.lowered (4 * (k + 1)) (stackedMem s.mem s.sp.toNat ((savedValues l s).take k)) c), ?_,
    ⟨rfl, rfl, rfl, rfl, rfl⟩, partlySaved_stacked hw hk.le hn⟩
  rw [he, cutStop_reset hr]
  rfl

/-- Settles O10: before a step by definition, in SAVE by its pushes, at the end of a step by those of the entry there. -/
theorem resetEvent : Obligations.ResetEvent :=
  ⟨fun s hr => ⟨s.resetEvent.spend, by rw [step, prepare, if_pos hr]; rfl, ⟨rfl, rfl, rfl, rfl, rfl⟩, fun _ => rfl⟩,
    fun _ _ _ hw hcut hk hn hc => save_reset hw hcut hk hn hc, fun _ _ _ _ hw hr h => complete_reset hw hr h⟩

end Sys2Proof.Machine
end

section
/-! PROOFS. The lengths of integers (10_state.md R20). -/
namespace Sys2Proof.IntLen

theorem bytes_le (i : IntLen) : i.bytes ≤ 4 := by cases i <;> decide

theorem bits_eq (i : IntLen) : i.bits = 8 * i.bytes := by cases i <;> rfl

theorem pow_bytes (i : IntLen) : 256 ^ i.bytes = 2 ^ i.bits := by cases i <;> rfl

theorem bits_pos (i : IntLen) : 0 < i.bits := by cases i <;> decide

/-- A value of a length is its own low part. -/
theorem mod_bytes (i : IntLen) (v : Nat) : v % 2 ^ i.bits % 256 ^ i.bytes = v % 2 ^ i.bits := by
  rw [pow_bytes, Nat.mod_mod]

theorem short_of_ne {i : IntLen} (h : i ≠ .d) : i.short = true := by
  cases i with
  | b => rfl
  | w => rfl
  | d => exact absurd rfl h

end Sys2Proof.IntLen
end

section
/-! PROOFS. From one delivery to a claim: what storing a value at a located operand and passing control on completes
with, and each shape of claim from it (30_encoding.md R160 to R162). -/
namespace Sys2Proof.Machine

/-! ## One delivery -/

/-- What the claims say of everything but the value delivered: `s` before, `s1` once the operands are accessed. -/
def Delivered (i : Instr) (n : Nat) (l : Loc) (flags : List Flag) (s s1 t : State) : Prop :=
  OnlyAt l n s1 t ∧ SameFlags flags s1 t ∧ SameStack s1 t ∧ SameControl s1 t ∧ NextSequential i s t

/-- Store a value at a location with PSR updated, and pass control on. -/
def State.deliverNext (s : State) (i : Instr) (w : Word) (n v : Nat) (l : Loc) : Res State :=
  s.deliver w n v l >>= fun t => .ok (t.advance i)

theorem State.deliverNext_ok {s s1 : State} {i : Instr} {n old : Nat} {l : Loc} {flags : List Flag} (c v : Nat)
    {w : Word} (hr : s1.readLoc n l = .ok old) (hf : LocFits n l) (hw : s1.mem.wf = true) (hx : s1.cut = .never)
    (hpc : s1.pc = s.pc) (hflags : ∀ k, k ∉ flags → Machine.flag w k = s1.flag k) :
    ∃ t, ({ s1 with freeCount := c } : State).deliverNext i w n v l = .ok t ∧ t.readLoc n l = .ok (v % 256 ^ n) ∧
      t.psr = w ∧ Delivered i n l flags s s1 t := by
  have hr : ({ s1 with freeCount := c } : State).readLoc n l = .ok old := by
    rw [← hr]
    exact State.readLoc_congr (s := s1) (t := { s1 with freeCount := c }) rfl rfl rfl hx hx n l
  obtain ⟨s2, h2, hv, ho, -, hp2, hs, hc, -, -, hy⟩ := State.writeLoc_ok (v := v) hr hf hw hx
  refine ⟨({ s2 with psr := w } : State).advance i, ?_, ?_, ?_, ?_, ?_, ?_, ?_, ?_⟩
  · rw [State.deliverNext, State.deliver_ok w h2]
    rfl
  · rw [← hv]; exact State.readLoc_congr (by simp) (by simp) (by simp) hy (by simp [hy]) _ _
  · simp
  · cases l <;> simpa [OnlyAt, SameRegs, SameFpRegs, SameMemory, SameOutside] using ho
  · intro k hk
    simpa [State.flag] using hflags k hk
  · simpa [SameStack] using hs
  · simpa [SameControl, SameBases, SameSystem] using hc
  · intro h
    have := State.advance_next ({ s2 with psr := w } : State) i (by simpa [hp2, hpc] using h)
    simpa [hp2, hpc] using this

/-- An instruction that ends in a delivery completes. -/
theorem exec_deliverNext {s s1 : State} {i : Instr} {n old : Nat} {l : Loc} {flags : List Flag} {c v : Nat}
    {w : Word} (he : exec i s = s.run (({ s1 with freeCount := c } : State).deliverNext i w n v l))
    (hr : s1.readLoc n l = .ok old) (hf : LocFits n l) (hw : s1.mem.wf = true) (hx : s1.cut = .never)
    (hpc : s1.pc = s.pc) (hflags : ∀ k, k ∉ flags → Machine.flag w k = s1.flag k) :
    ∃ t, exec i s = .next t ∧ t.readLoc n l = .ok (v % 256 ^ n) ∧ t.psr = w ∧ Delivered i n l flags s s1 t := by
  obtain ⟨t, ht, h⟩ := State.deliverNext_ok c v hr hf hw hx hpc hflags
  exact ⟨t, by rw [he, ht]; exact State.run_next.2 (.inl rfl), h⟩

/-! ## Claims -/

/-- `ins` with integer operands `src read.ns, dest rmw.nd` delivers some value in some PSR, whatever free values it
draws. -/
theorem rmwClaimIf_of {pre : Nat → Nat → Prop} {ins : Instr} {ns nd : Nat} {src dst : Gen} {flags : List Flag}
    {rel : Nat → Nat → Word → Nat → Word → Prop} (hns : ns ≤ 4) (hnd : nd ≤ 4)
    (h : ∀ {s s1 : State} {a d : Nat} {l : Loc}, readOp .int ns s s src = .ok (a, s1) →
      locate .int s s1 dst = .ok l → s1.readLoc nd l = .ok d → pre a d → a < 256 ^ ns → d < 256 ^ nd →
      ∃ (c v : Nat) (w : Word), exec ins s = s.run (({ s1 with freeCount := c } : State).deliverNext ins w nd v l) ∧
        rel a d s.psr (v % 256 ^ nd) w ∧ ∀ k, k ∉ flags → flag w k = s1.flag k) :
    RmwClaimIf pre ins ns nd src dst flags rel := by
  intro s s1 a d l hw hx ha hl hd hp
  obtain ⟨-, -, hm, -, hpc, -, hq, -⟩ := readOp_frame ha
  have hf := locate_fits_int hl hnd
  obtain ⟨c, v, w, he, hrel, hflags⟩ := h ha hl hd hp (readOp_lt ha (fun _ => hns) nofun) (State.readLoc_lt hd hf)
  obtain ⟨t, ht, hv, rfl, hdel⟩ := exec_deliverNext he hd hf (by rw [hm]; exact hw) (hq hx) hpc hflags
  exact ⟨t, _, ht, hv, hrel, hdel⟩

/-- `ins` with integer operands `src read.ns, dest write.nd`. -/
theorem moveClaim_of {ins : Instr} {ns nd : Nat} {src dst : Gen} {flags : List Flag} {rel : Nat → Nat → Word → Prop}
    (hns : ns ≤ 4) (hnd : nd ≤ 4)
    (h : ∀ {s s1 s2 : State} {a : Nat} {l : Loc}, readOp .int ns s s src = .ok (a, s1) →
      locateWrite .int nd s s1 dst = .ok (l, s2) → a < 256 ^ ns →
      ∃ (v : Nat) (w : Word), exec ins s = s.run (s2.deliverNext ins w nd v l) ∧ rel a (v % 256 ^ nd) w ∧
        ∀ k, k ∉ flags → flag w k = s2.flag k) : MoveClaim ins ns nd src dst flags rel := by
  intro s s1 s2 a old l hw hx ha hl hd
  obtain ⟨-, -, hm, -, hpc, -, hq, -⟩ := readOp_frame ha
  obtain ⟨-, -, hm', -, hpc', -, hq', -⟩ := locateWrite_frame hl
  obtain ⟨v, w, he, hrel, hflags⟩ := h ha hl (readOp_lt ha (fun _ => hns) nofun)
  obtain ⟨t, ht, hv, rfl, hdel⟩ := exec_deliverNext (c := s2.freeCount) he hd
    (locateWrite_fits hl (fun _ => hnd) nofun) (by rw [hm', hm]; exact hw) (hq'.trans (hq hx)) (hpc'.trans hpc) hflags
  exact ⟨t, _, ht, hv, hrel, hdel⟩

/-- `ins` with an integer operand `dest write.n` whose value comes from the state. -/
theorem storeClaim_of {ins : Instr} {n : Nat} {dst : Gen} {pre : State → Prop} {rel : State → Nat → Prop} (hn : n ≤ 4)
    (h : ∀ {s s2 : State} {l : Loc}, pre s → locateWrite .int n s s dst = .ok (l, s2) →
      ∃ v : Nat, exec ins s = s.run (s2.deliverNext ins s2.psr n v l) ∧ rel s (v % 256 ^ n)) :
    StoreClaim ins n dst pre rel := by
  intro s s2 old l hw hx hp hl hd
  obtain ⟨-, -, hm, -, hpc, -, hq, -⟩ := locateWrite_frame hl
  obtain ⟨v, he, hrel⟩ := h hp hl
  obtain ⟨t, ht, hv, -, hdel⟩ := exec_deliverNext (flags := []) (c := s2.freeCount) he hd
    (locateWrite_fits hl (fun _ => hn) nofun) (by rw [hm]; exact hw) (hq.trans hx) hpc (fun _ _ => rfl)
  exact ⟨t, _, ht, hv, hrel, hdel⟩

/-! ## Claims about the shapes -/

/-- A read-modify-write instruction by the function it applies. -/
theorem rmwClaim_of_shape {pre : Nat → Nat → Prop} {ins : Instr} {ns nd : Nat} {src dst : Gen} {flags : List Flag}
    {rel : Nat → Nat → Word → Nat → Word → Prop} {f : Nat → Nat → Word → Nat × Word} (hns : ns ≤ 4) (hnd : nd ≤ 4)
    (he : ∀ s, exec ins s = s.run (rmwShape ns nd ins src dst f s))
    (hrel : ∀ a d w, a < 256 ^ ns → d < 256 ^ nd → pre a d → rel a d w ((f a d w).1 % 256 ^ nd) (f a d w).2)
    (hflags : ∀ a d w k, k ∉ flags → flag (f a d w).2 k = flag w k) :
    RmwClaimIf pre ins ns nd src dst flags rel :=
  rmwClaimIf_of hns hnd fun {s s1 a d l} ha hl hd hp hlta hltd => by
    obtain ⟨-, -, -, hpsr, -, -, -, -⟩ := readOp_frame ha
    refine ⟨s1.freeCount, (f a d s.psr).1, (f a d s.psr).2, ?_, hrel a d s.psr hlta hltd hp, fun k hk => ?_⟩
    · simp only [he, rmwShape, ha, hl, hd, bind, Except.bind]
      rfl
    · rw [hflags a d s.psr k hk, State.flag, hpsr]

/-- A moving instruction by the function it applies. -/
theorem moveClaim_of_shape {ins : Instr} {ns nd : Nat} {src dst : Gen} {flags : List Flag}
    {rel : Nat → Nat → Word → Prop} {f : Nat → Word → Nat × Word} (hns : ns ≤ 4) (hnd : nd ≤ 4)
    (he : ∀ s, exec ins s = s.run (moveShape .int .int ns nd ins src dst f s))
    (hrel : ∀ a w, a < 256 ^ ns → rel a ((f a w).1 % 256 ^ nd) (f a w).2)
    (hflags : ∀ a w k, k ∉ flags → flag (f a w).2 k = flag w k) : MoveClaim ins ns nd src dst flags rel :=
  moveClaim_of hns hnd fun {s s1 s2 a l} ha hl hlt => by
    obtain ⟨-, -, -, hpsr, -, -, -, -⟩ := readOp_frame ha
    obtain ⟨-, -, -, hpsr', -, -, -, -⟩ := locateWrite_frame hl
    refine ⟨(f a s.psr).1, (f a s.psr).2, ?_, hrel a s.psr hlt, fun k hk => ?_⟩
    · simp only [he, moveShape, ha, hl, bind, Except.bind]
      rfl
    · rw [hflags a s.psr k hk, State.flag, hpsr', hpsr]

/-- An instruction that stores what its immediate source and PSR give. -/
theorem storeClaim_of_shape {ins : Instr} {n : Nat} {dst : Gen} {x : Quad} {rel : State → Nat → Prop}
    {f : Nat → Word → Nat} (hn : n ≤ 4)
    (he : ∀ s, exec ins s = s.run (moveShape .int .int n n ins (.imm x) dst (fun a w => (f a w, w)) s))
    (hrel : ∀ s : State, rel s (f (x.toNat % 256 ^ n) s.psr % 256 ^ n)) :
    StoreClaim ins n dst (fun _ => True) rel :=
  storeClaim_of hn fun {s s2 l} _ hl => by
    obtain ⟨-, -, -, hpsr, -, -, -, -⟩ := locateWrite_frame hl
    refine ⟨f (x.toNat % 256 ^ n) s.psr, ?_, hrel s⟩
    have ha : readOp .int n s s (.imm x) = .ok (x.toNat % 256 ^ n, s) := rfl
    simp only [he, moveShape, ha, hl, bind, Except.bind, hpsr]
    rfl

/-- A read-modify-write instruction whose source is in the instruction. -/
theorem RmwClaim.inPlace {ins : Instr} {ns nd : Nat} {dst : Gen} {flags : List Flag} {x : Quad}
    {rel : Nat → Nat → Nat → Word → Prop}
    (h : RmwClaim ins ns nd (.imm x) dst flags (fun a d _ r w => rel a d r w)) :
    InPlaceClaim ins nd dst flags (rel (x.toNat % 256 ^ ns)) :=
  fun s d l hw hx hl hd => h s s _ d l hw hx rfl hl hd trivial

/-- A comparison by the flags it computes. -/
theorem compareClaim_of_shape {ins : Instr} {n : Nat} {src1 src2 : Gen} {rel : Nat → Nat → Word → Prop}
    {f : Nat → Nat → Word → Word} (hn : n ≤ 4) (he : ∀ s, exec ins s = s.run (compareShape n ins src1 src2 f s))
    (hrel : ∀ a b w, a < 256 ^ n → b < 256 ^ n → rel a b (f a b w))
    (hflags : ∀ a b w k, k ∉ [Flag.z, .n, .l] → flag (f a b w) k = flag w k) : CompareClaim ins n src1 src2 rel := by
  intro s s1 s2 a b ha hb
  obtain ⟨t, ht, hpsr, hdata, hnext⟩ := compareShape_ok (i := ins) (f := f) ha hb
  obtain ⟨-, -, -, hpsr1, -, -, -, -⟩ := readOp_frame ha
  obtain ⟨-, -, -, hpsr2, -, -, -, -⟩ := readOp_frame hb
  refine ⟨t, by rw [he, ht]; exact State.run_next.2 (.inl rfl), ?_, fun k hk => ?_, hdata, hnext⟩
  · rw [hpsr]
    exact hrel a b s.psr (readOp_lt ha (fun _ => hn) nofun) (readOp_lt hb (fun _ => hn) nofun)
  · rw [State.flag, hpsr, hflags a b s.psr k hk, State.flag, hpsr2, hpsr1]

end Sys2Proof.Machine
end

section
/-! PROOFS. Integers of a length: the model's `sext`, `trunc` and `fits` are the signed value, the wrapped value and
the absence of overflow (00_scope.md R10, 40_integer.md R200). -/
namespace Sys2Proof.Machine

/-- The signed value of a number is its sign extension (R10). -/
theorem sext_eq_signed {bits : Nat} (hb : 0 < bits) (v : Nat) : sext bits v = signed bits v := by
  obtain ⟨b, rfl⟩ : ∃ b, bits = b + 1 := ⟨bits - 1, by omega⟩
  have hp : 2 ^ (b + 1) = 2 * 2 ^ b := Nat.pow_succ'
  rw [signed, BitVec.toInt_eq_toNat_cond, BitVec.toNat_ofNat, sext, Nat.add_sub_cancel]
  have : (v % 2 ^ (b + 1) < 2 ^ b) ↔ 2 * (v % 2 ^ (b + 1)) < 2 ^ (b + 1) := by omega
  simp only [this]

/-- The low bits of a number (R10). -/
theorem trunc_eq_wrapped (bits : Nat) (x : Int) : trunc bits x = wrapped bits x := (BitVec.toNat_ofInt ..).symm

theorem wrapped_lt (bits : Nat) (x : Int) : wrapped bits x < 2 ^ bits := (BitVec.ofInt bits x).isLt

theorem wrapped_cast (bits : Nat) (x : Int) : (wrapped bits x : Int) = x % 2 ^ bits := by
  rw [wrapped, BitVec.toNat_ofInt, Int.toNat_of_nonneg (Int.emod_nonneg _ (by positivity))]
  norm_cast

/-- Numbers that agree modulo 2^N have the same low bits. -/
theorem wrapped_congr {bits : Nat} {x y : Int} (h : x % 2 ^ bits = y % 2 ^ bits) : wrapped bits x = wrapped bits y := by
  have := (wrapped_cast bits x).trans (h.trans (wrapped_cast bits y).symm)
  exact_mod_cast this

theorem wrapped_natCast (bits v : Nat) : wrapped bits v = v % 2 ^ bits := by
  have h := wrapped_cast bits v
  norm_cast at h

/-- A number and its signed value agree modulo 2^N. -/
theorem signed_emod (bits v : Nat) : signed bits v % 2 ^ bits = (v : Int) % 2 ^ bits := by
  have h := Int.bmod_emod (x := (v : Int)) (m := 2 ^ bits)
  rw [signed, BitVec.toInt_ofNat']
  exact_mod_cast h

theorem not_fits_iff {bits : Nat} (x : Int) : (!fits bits x) = true ↔ Overflows bits x := by
  simp only [fits, Overflows, Bool.not_eq_true', Bool.and_eq_false_iff, decide_eq_false_iff_not]
  push_cast
  omega

end Sys2Proof.Machine
end

section
/-! PROOFS. The integer instructions without division (40_integer.md sections 1 to 4 and 6 to 8). -/
namespace Sys2Proof.Machine

/-! ## Flags -/

theorem flag_putFlag_two {w : Word} {k j₁ j₂ : Flag} {b₁ b₂ : Bool} (hk : k ∉ [j₁, j₂]) :
    flag (putFlag (putFlag w j₁ b₁) j₂ b₂) k = flag w k := by
  simp only [List.mem_cons, List.not_mem_nil, or_false, not_or] at hk
  rw [flag_putFlag_other _ _ hk.2, flag_putFlag_other _ _ hk.1]

theorem flag_addFlags {bits a b cin : Nat} {w : Word} {k : Flag} (hk : k ∉ [Flag.c, .f]) :
    flag (addFlags bits a b cin w) k = flag w k := flag_putFlag_two hk

theorem flag_subFlags {bits d a bin : Nat} {w : Word} {k : Flag} (hk : k ∉ [Flag.c, .f]) :
    flag (subFlags bits d a bin w) k = flag w k := flag_putFlag_two hk

theorem flag_cmpFlags {bits a b : Nat} {w : Word} {k : Flag} (hk : k ∉ [Flag.z, .n, .l]) :
    flag (cmpFlags bits a b w) k = flag w k := by
  simp only [List.mem_cons, List.not_mem_nil, or_false, not_or] at hk
  obtain ⟨hz, hn, hl⟩ := hk
  rw [cmpFlags, flag_putFlag_other _ _ hl, flag_putFlag_other _ _ hn, flag_putFlag_other _ _ hz]

/-! ## Addition and subtraction (R210 to R215) -/

theorem added_addFlags (i : IntLen) (a d cin : Nat) (w : Word) :
    Added i.bits a d cin ((d + a + cin) % 2 ^ i.bits % 256 ^ i.bytes) (addFlags i.bits d a cin w) := by
  refine ⟨i.mod_bytes _, ?_, ?_⟩
  · rw [addFlags, flag_putFlag_other _ _ (by decide), flag_putFlag_same, decide_eq_true_iff]
  · rw [addFlags, flag_putFlag_same, not_fits_iff, sext_eq_signed i.bits_pos, sext_eq_signed i.bits_pos]

theorem wrapped_mod_bytes (i : IntLen) (x : Int) : wrapped i.bits x % 256 ^ i.bytes = wrapped i.bits x := by
  rw [IntLen.pow_bytes, Nat.mod_eq_of_lt (wrapped_lt _ _)]

theorem subtracted_subFlags (i : IntLen) (a d bin : Nat) (w : Word) :
    Subtracted i.bits a d bin (trunc i.bits ((d : Int) - a - bin) % 256 ^ i.bytes) (subFlags i.bits d a bin w) := by
  refine ⟨?_, ?_, ?_⟩
  · rw [trunc_eq_wrapped, wrapped_mod_bytes]
  · rw [subFlags, flag_putFlag_other _ _ (by decide), flag_putFlag_same, decide_eq_true_iff]
  · rw [subFlags, flag_putFlag_same, not_fits_iff, sext_eq_signed i.bits_pos, sext_eq_signed i.bits_pos]

/-- The immediate a quick operand stands for (R137). -/
theorem quickImm (i : IntLen) (q : BitVec 4) :
    (BitVec.ofNat 64 (quickValue i q)).toNat % 256 ^ i.bytes = wrapped i.bits q.toInt := by
  have hlt := wrapped_lt i.bits q.toInt
  have h64 : 2 ^ i.bits ≤ 2 ^ 64 := Nat.pow_le_pow_right (by decide) (by cases i <;> decide)
  rw [quickValue, trunc_eq_wrapped, BitVec.toNat_ofNat, Nat.mod_eq_of_lt (hlt.trans_le h64), wrapped_mod_bytes]

/-- Settles O21: each is a shape with the model's own flag functions, which are the spec's carry and overflow. -/
theorem addSubtract : Obligations.AddSubtract := by
  intro i q src dst
  have hb := i.bytes_le
  refine ⟨?addi, ?addqi, ?addci, ?subi, ?subci, ?negi⟩
  case addi =>
    exact rmwClaim_of_shape hb hb (fun _ => rfl) (fun a d w _ _ _ => added_addFlags i a d 0 w)
      (fun _ _ _ _ hk => flag_addFlags hk)
  case addqi =>
    have h : RmwClaim (.addqi i q dst) i.bytes i.bytes (quickGen i q) dst [.c, .f]
        (fun a d _ r w => Added i.bits a d 0 r w) :=
      rmwClaim_of_shape hb hb (fun _ => rfl) (fun a d w _ _ _ => added_addFlags i a d 0 w)
        (fun _ _ _ _ hk => flag_addFlags hk)
    rw [← quickImm]
    exact h.inPlace
  case addci =>
    exact rmwClaim_of_shape hb hb (fun _ => rfl) (fun a d w _ _ _ => added_addFlags i a d (flag w .c).toNat w)
      (fun _ _ _ _ hk => flag_addFlags hk)
  case subi =>
    refine rmwClaim_of_shape hb hb (fun _ => rfl) (fun a d w _ _ _ => ?_) (fun _ _ _ _ hk => flag_subFlags hk)
    have h := subtracted_subFlags i a d 0 w
    rwa [Nat.cast_zero, sub_zero] at h
  case subci =>
    exact rmwClaim_of_shape hb hb (fun _ => rfl) (fun a d w _ _ _ => subtracted_subFlags i a d (flag w .c).toNat w)
      (fun _ _ _ _ hk => flag_subFlags hk)
  case negi =>
    refine moveClaim_of_shape hb hb (fun _ => rfl) (fun a w _ => ?_) (fun _ _ _ hk => flag_subFlags hk)
    have h := subtracted_subFlags i a 0 0 w
    rwa [Nat.cast_zero, sub_zero, zero_sub] at h

/-! ## Magnitude and product (R216, R217) -/

theorem signed_of_lt {bits v : Nat} (hb : 0 < bits) (h : v < 2 ^ (bits - 1)) : signed bits v = v := by
  have hp : 2 ^ bits = 2 * 2 ^ (bits - 1) := by rw [← Nat.pow_succ']; congr 1; omega
  rw [← sext_eq_signed hb, sext, Nat.mod_eq_of_lt (by omega), if_pos h]

theorem signed_of_ge {bits v : Nat} (hb : 0 < bits) (h : 2 ^ (bits - 1) ≤ v) (hv : v < 2 ^ bits) :
    signed bits v = v - 2 ^ bits := by
  rw [← sext_eq_signed hb, sext, Nat.mod_eq_of_lt hv, if_neg (by omega)]
  push_cast
  rfl

theorem half_add_half {bits : Nat} (hb : 0 < bits) : 2 ^ bits = 2 * 2 ^ (bits - 1) := by
  rw [← Nat.pow_succ']; congr 1; omega

theorem magnitude {bits v : Nat} (hb : 0 < bits) (hv : v < 2 ^ bits) :
    (if v < 2 ^ (bits - 1) then v else trunc bits (-(v : Int))) = wrapped bits |signed bits v| := by
  split
  · rename_i h
    rw [signed_of_lt hb h, abs_of_nonneg (by omega), wrapped_natCast, Nat.mod_eq_of_lt hv]
  · rename_i h
    have hv' : (v : Int) < 2 ^ bits := by exact_mod_cast hv
    rw [signed_of_ge hb (by omega) hv, abs_of_neg (by omega), trunc_eq_wrapped]
    refine wrapped_congr ?_
    rw [neg_sub, sub_eq_add_neg, Int.add_emod, Int.emod_self, zero_add, Int.emod_emod]

theorem mostNegative_iff {bits v : Nat} (hb : 0 < bits) (hv : v < 2 ^ bits) :
    v = 2 ^ (bits - 1) ↔ signed bits v = -2 ^ (bits - 1) := by
  have hp : (2 : Int) ^ bits = 2 * 2 ^ (bits - 1) := by exact_mod_cast half_add_half hb
  have hpos : (0 : Int) < 2 ^ (bits - 1) := by positivity
  have hc : ((2 ^ (bits - 1) : Nat) : Int) = 2 ^ (bits - 1) := by push_cast; rfl
  by_cases h : v < 2 ^ (bits - 1)
  · rw [signed_of_lt hb h]
    omega
  · rw [signed_of_ge hb (by omega) hv, hp]
    omega

theorem product_wrapped (bits a d : Nat) : d * a % 2 ^ bits = wrapped bits (signed bits d * signed bits a) := by
  rw [← wrapped_natCast]
  refine wrapped_congr ?_
  rw [Int.mul_emod (signed bits d), signed_emod, signed_emod, ← Int.mul_emod]
  push_cast
  rfl

/-- Settles O22: the shape with the magnitude and the product. -/
theorem absoluteMultiply : Obligations.AbsoluteMultiply := by
  intro i src dst
  have hb := i.bytes_le
  constructor
  · refine moveClaim_of_shape hb hb (fun _ => rfl) (fun a w ha => ⟨?_, ?_⟩) (fun _ _ k hk => ?_)
    · rw [IntLen.pow_bytes] at ha
      rw [magnitude i.bits_pos ha, wrapped_mod_bytes]
    · rw [IntLen.pow_bytes] at ha
      rw [flag_putFlag_same, decide_eq_true_iff, mostNegative_iff i.bits_pos ha]
    · exact flag_putFlag_other _ _ (List.ne_of_not_mem_cons hk)
  · refine rmwClaim_of_shape hb hb (fun _ => rfl) (fun a d w _ _ _ => ?_) (fun _ _ _ _ _ => rfl)
    rw [i.mod_bytes, product_wrapped]

/-! ## Moves and comparisons (R224 to R231) -/

theorem signed_byte_word {bits v : Nat} {n : Nat} (hb : 0 < bits) : trunc n (sext bits v) = wrapped n (signed bits v) := by
  rw [trunc_eq_wrapped, sext_eq_signed hb]

/-- Settles O25: each is the moving shape with its extension. -/
theorem moves : Obligations.Moves := by
  intro i q src dst
  have hb := i.bytes_le
  have hcopy {n a : Nat} (h : a < 256 ^ n) {m : Nat} (hn : n ≤ m) : a % 256 ^ m = a :=
    Nat.mod_eq_of_lt (h.trans_le (Nat.pow_le_pow_right (by decide) hn))
  refine ⟨?_, ?_, ?_, ?_, fun hi => ?_, fun hi => ?_⟩
  · exact moveClaim_of_shape hb hb (fun _ => rfl) (fun a _ ha => hcopy ha le_rfl) (fun _ _ _ _ => rfl)
  · refine storeClaim_of_shape (f := fun a _ => a) (x := BitVec.ofNat 64 (quickValue i q)) hb (fun _ => rfl) fun s => ?_
    rw [quickImm, wrapped_mod_bytes]
  · refine moveClaim_of_shape (by decide) (by decide) (fun _ => rfl) (fun a _ _ => ?_) (fun _ _ _ _ => rfl)
    rw [signed_byte_word (by decide)]
    exact Nat.mod_eq_of_lt (wrapped_lt 16 _)
  · exact moveClaim_of_shape (by decide) (by decide) (fun _ => rfl) (fun a _ ha => hcopy ha (by decide))
      (fun _ _ _ _ => rfl)
  · refine moveClaim_of_shape hb (by decide) (fun s => congrArg s.run (if_pos (IntLen.short_of_ne hi)))
      (fun a _ _ => ?_) (fun _ _ _ _ => rfl)
    rw [signed_byte_word i.bits_pos]
    exact Nat.mod_eq_of_lt (wrapped_lt 32 _)
  · exact moveClaim_of_shape hb (by decide) (fun s => congrArg s.run (if_pos (IntLen.short_of_ne hi)))
      (fun a _ ha => hcopy ha hb) (fun _ _ _ _ => rfl)

theorem compared_cmpFlags {bits : Nat} (hb : 0 < bits) (a b : Nat) (w : Word) : Compared bits a b (cmpFlags bits a b w) := by
  refine ⟨?_, ?_, ?_⟩
  · rw [cmpFlags, flag_putFlag_other _ _ (by decide), flag_putFlag_other _ _ (by decide), flag_putFlag_same,
      decide_eq_true_iff]
  · rw [cmpFlags, flag_putFlag_other _ _ (by decide), flag_putFlag_same, decide_eq_true_iff, sext_eq_signed hb,
      sext_eq_signed hb]
  · rw [cmpFlags, flag_putFlag_same, decide_eq_true_iff]

/-- Settles O26: both are the comparing shape; CMPQi reads its quick operand as an immediate. -/
theorem comparisons : Obligations.Comparisons := by
  intro i q src1 src2
  have hrel (a b : Nat) (w : Word) (_ : a < 256 ^ i.bytes) (_ : b < 256 ^ i.bytes) :=
    compared_cmpFlags i.bits_pos a b w
  refine ⟨compareClaim_of_shape i.bytes_le (fun _ => rfl) hrel (fun _ _ _ _ hk => flag_cmpFlags hk), fun s s1 b hr => ?_⟩
  have h : CompareClaim (.cmpqi i q src2) i.bytes (quickGen i q) src2 (Compared i.bits) :=
    compareClaim_of_shape i.bytes_le (fun _ => rfl) hrel (fun _ _ _ _ hk => flag_cmpFlags hk)
  rw [← quickImm]
  exact h s s s1 _ b rfl hr

/-! ## Conditions (R311, R401) -/

theorem saveCondition_claim {i : IntLen} {g : Gen} {ins : Instr} {k : Cond} (p : State → Prop) [DecidablePred p]
    (he : ∀ s, exec ins s = s.run (scondShape i ins k g s)) (hp : ∀ s : State, condTrue k s.psr = true ↔ p s) :
    StoreClaim ins i.bytes g (fun _ => True) (fun s r => r = if p s then 1 else 0) := by
  refine storeClaim_of_shape (f := fun _ w => (condTrue k w).toNat) i.bytes_le he fun s => ?_
  have hone : 1 < 256 ^ i.bytes := by cases i <;> decide
  by_cases h : p s
  · rw [if_pos h, (hp s).2 h]
    exact Nat.mod_eq_of_lt hone
  · rw [if_neg h, Bool.eq_false_iff.2 (mt (hp s).1 h)]
    exact Nat.zero_mod _

/-- Settles O30: one shape, and R401 case by case. -/
theorem saveCondition : Obligations.SaveCondition := by
  intro i g
  refine ⟨?_, ?_, ?_, ?_, ?_, ?_, ?_, ?_, ?_, ?_, ?_, ?_, ?_, ?_⟩ <;>
    refine saveCondition_claim _ (fun _ => rfl) fun s => ?_ <;> simp [condTrue, State.flag]

end Sys2Proof.Machine
end

section
/-! PROOFS. The bitwise instructions (43_logical_shift.md section 2). -/
namespace Sys2Proof.Machine

theorem testBit_mod_bytes (i : IntLen) {v : Nat} (h : v < 2 ^ i.bits) (k : Nat) :
    (v % 256 ^ i.bytes).testBit k = v.testBit k := by
  rw [IntLen.pow_bytes, Nat.mod_eq_of_lt h]

theorem testBit_complement {bits a : Nat} (ha : a < 2 ^ bits) (k : Nat) :
    (2 ^ bits - 1 - a).testBit k = (decide (k < bits) && !a.testBit k) := by
  rw [Nat.sub_sub, Nat.add_comm 1 a, Nat.testBit_two_pow_sub_succ ha]

/-- Settles O28: each function of the shape bit by bit. -/
theorem bitwise : Obligations.Bitwise := by
  intro i src dst
  have hb := i.bytes_le
  refine ⟨?_, ?_, ?_, ?_, ?_, ?_⟩
  · refine rmwClaim_of_shape hb hb (fun _ => rfl) (fun a d w ha hd _ k => ?_) (fun _ _ _ _ _ => rfl)
    rw [IntLen.pow_bytes] at ha hd
    rw [testBit_mod_bytes i (Nat.and_lt_two_pow _ ha), Nat.testBit_and]
  · refine rmwClaim_of_shape hb hb (fun _ => rfl) (fun a d w ha hd _ k => ?_) (fun _ _ _ _ _ => rfl)
    rw [IntLen.pow_bytes] at ha hd
    rw [testBit_mod_bytes i (Nat.or_lt_two_pow hd ha), Nat.testBit_or]
  · refine rmwClaim_of_shape hb hb (fun _ => rfl) (fun a d w ha hd _ k => ?_) (fun _ _ _ _ _ => rfl)
    rw [IntLen.pow_bytes] at ha hd
    rw [testBit_mod_bytes i (Nat.and_lt_two_pow _ (by have := Nat.two_pow_pos i.bits; omega)), Nat.testBit_and,
      testBit_complement ha]
    by_cases hk : k < i.bits
    · simp [hk]
    · rw [Nat.testBit_lt_two_pow (hd.trans_le (Nat.pow_le_pow_right (by decide) (by omega)))]
      rfl
  · refine rmwClaim_of_shape hb hb (fun _ => rfl) (fun a d w ha hd _ k => ?_) (fun _ _ _ _ _ => rfl)
    rw [IntLen.pow_bytes] at ha hd
    rw [testBit_mod_bytes i (Nat.xor_lt_two_pow hd ha), Nat.testBit_xor]
  · refine moveClaim_of_shape hb hb (fun _ => rfl) (fun a w ha k => ?_) (fun _ _ _ _ => rfl)
    rw [IntLen.pow_bytes] at ha
    rw [testBit_mod_bytes i (by have := Nat.two_pow_pos i.bits; omega), testBit_complement ha]
  · refine moveClaim_of_shape hb hb (fun _ => rfl) (fun a w ha k => ?_) (fun _ _ _ _ => rfl)
    rw [IntLen.pow_bytes] at ha
    have hone : 1 < 2 ^ i.bits := by cases i <;> decide
    rw [testBit_mod_bytes i (Nat.xor_lt_two_pow ha hone), Nat.testBit_xor]
    by_cases hk : k = 0
    · subst hk
      simp
    · rw [if_neg hk, Nat.testBit_lt_two_pow (x := 1) (Nat.one_lt_two_pow hk), Bool.xor_false]

end Sys2Proof.Machine
end

section
/-! PROOFS. Division and shifts: exact quotients and products of powers of two, rounded (40_integer.md section 5,
43_logical_shift.md section 3). -/
namespace Sys2Proof.Machine

/-! ## Rounded quotients (R219, R221) -/

/-- A statement about a quotient may be shown for a positive divisor. -/
theorem quotient_of_pos {p : ℚ → Int → Int → Prop} (hneg : ∀ q x y, p q (-x) (-y) → p q x y)
    (hpos : ∀ (x : Int) (n : Nat), 0 < n → p ((x : ℚ) / (n : Int)) x n) {x y : Int} (hy : y ≠ 0) :
    p ((x : ℚ) / y) x y := by
  obtain ⟨n, rfl | rfl⟩ := y.eq_nat_or_neg
  · exact hpos x n (by omega)
  · refine hneg _ _ _ ?_
    have h := hpos (-x) n (by omega)
    rw [neg_neg]
    convert h using 1
    push_cast
    rw [div_neg, neg_div]

theorem floor_div (x : Int) {y : Int} (hy : y ≠ 0) : ⌊(x : ℚ) / y⌋ = x.fdiv y := by
  refine quotient_of_pos (p := fun q x y => ⌊q⌋ = x.fdiv y) (fun q x y h => ?_) (fun x n hn => ?_) hy
  · rw [h, Int.neg_fdiv_neg]
  · rw [Int.cast_natCast, Rat.floor_intCast_div_natCast, Int.fdiv_eq_ediv_of_nonneg _ (by omega)]

theorem truncated_div (x : Int) {y : Int} (hy : y ≠ 0) : truncated ((x : ℚ) / y) = x.tdiv y := by
  refine quotient_of_pos (p := fun q x y => truncated q = x.tdiv y) (fun q x y h => ?_) (fun x n hn => ?_) hy
  · rw [h, Int.neg_tdiv_neg]
  · have hn' : (0 : ℚ) < n := by exact_mod_cast hn
    rw [truncated, Int.cast_natCast]
    by_cases hx : 0 ≤ x
    · rw [if_pos (div_nonneg (by exact_mod_cast hx) hn'.le), Rat.floor_intCast_div_natCast,
        Int.tdiv_eq_ediv_of_nonneg hx]
    · have hx' : (x : ℚ) < 0 := by exact_mod_cast not_le.1 hx
      rw [if_neg (not_le.2 (div_neg_of_neg_of_pos hx' hn')), ← neg_neg ((x : ℚ) / n), Int.ceil_neg, ← neg_div,
        ← Int.cast_neg, Rat.floor_intCast_div_natCast, ← Int.tdiv_eq_ediv_of_nonneg (by omega), Int.neg_tdiv, neg_neg]

/-! ## The four divisions -/

theorem signed_ne_zero {bits v : Nat} (hb : 0 < bits) (hv : v < 2 ^ bits) (h : v ≠ 0) : signed bits v ≠ 0 := by
  by_cases hs : v < 2 ^ (bits - 1)
  · rw [signed_of_lt hb hs]
    exact_mod_cast h
  · rw [signed_of_ge hb (by omega) hv]
    have : (v : Int) < 2 ^ bits := by exact_mod_cast hv
    omega

theorem divClaim_of_shape {i : IntLen} {ins : Instr} {src dst : Gen} {f : Int → Int → Int} {g : Int → Int → Int}
    (he : ∀ s, exec ins s = s.run (divShape i ins src dst f s)) (hg : ∀ d a, a ≠ 0 → f d a = g d a) :
    RmwClaimIf (fun a _ => a ≠ 0) ins i.bytes i.bytes src dst [] (fun a d _ r _ =>
      r = wrapped i.bits (g (signed i.bits d) (signed i.bits a))) :=
  rmwClaimIf_of i.bytes_le i.bytes_le fun {s s1 a d l} ha hl hd hp hlta hltd => by
    rw [IntLen.pow_bytes] at hlta
    refine ⟨s1.freeCount, trunc i.bits (f (sext i.bits d) (sext i.bits a)), s1.psr, ?_, ?_, fun _ _ => rfl⟩
    · simp only [he, divShape, ha, hl, hd, bind, Except.bind, if_neg hp]
      rfl
    · rw [trunc_eq_wrapped, wrapped_mod_bytes, sext_eq_signed i.bits_pos, sext_eq_signed i.bits_pos,
        hg _ _ (signed_ne_zero i.bits_pos hlta hp)]

/-- Each of the four divisions is the dividing shape with its own rounding. -/
theorem exec_division {i : IntLen} {src dst : Gen} {ins : Instr}
    (h : ins ∈ [Instr.divi i src dst, .modi i src dst, .quoi i src dst, .remi i src dst]) :
    ∃ f, ∀ s, exec ins s = s.run (divShape i ins src dst f s) := by
  simp only [List.mem_cons, List.not_mem_nil, or_false] at h
  obtain rfl | rfl | rfl | rfl := h <;> exact ⟨_, fun _ => rfl⟩

/-- What DEIi does once its operands are read (R223). -/
def deiiBody (i : IntLen) (src dst : Gen) (s s1 : State) (a : Nat) (l : Loc) (d : Nat × Nat) : Res State :=
  if a = 0 then s.trap .dvz
  else if (d.1 + 2 ^ i.bits * d.2) / a < 2 ^ i.bits then
    s1.writePair i.bytes ((d.1 + 2 ^ i.bits * d.2) % a) ((d.1 + 2 ^ i.bits * d.2) / a) l >>= fun t =>
      .ok (t.advance (.deii i src dst))
  else (s1.freshNat (2 * i.bits)).2.writePair i.bytes ((s1.freshNat (2 * i.bits)).1 % 2 ^ i.bits)
      ((s1.freshNat (2 * i.bits)).1 / 2 ^ i.bits) l >>= fun t => .ok (t.advance (.deii i src dst))

theorem exec_deii (i : IntLen) (src dst : Gen) (s : State) :
    exec (.deii i src dst) s = s.run (readOp .int i.bytes s s src >>= fun p => locate .int s p.2 dst >>= fun l =>
      p.2.readPair i.bytes l >>= deiiBody i src dst s p.2 p.1 l) := rfl

/-- Trap (DVZ) and what comes before it (R203, R512, D8). -/
theorem division_stops {i : IntLen} {src dst : Gen} {s s1 : State} {a : Nat}
    (ha : readOp .int i.bytes s s src = .ok (a, s1)) :
    (∀ (l : Loc) (d : Nat), a = 0 → locate .int s s1 dst = .ok l → s1.readLoc i.bytes l = .ok d →
      ∀ ins ∈ [Instr.divi i src dst, .modi i src dst, .quoi i src dst, .remi i src dst],
        exec ins s = finish (s.trap .dvz)) ∧
    (∀ (l : Loc) (d : Nat × Nat), a = 0 → locate .int s s1 dst = .ok l → s1.readPair i.bytes l = .ok d →
      exec (.deii i src dst) s = finish (s.trap .dvz)) ∧
    (∀ e : Stop, locate .int s s1 dst = .error e →
      ∀ ins ∈ [Instr.divi i src dst, .modi i src dst, .quoi i src dst, .remi i src dst, .deii i src dst],
        exec ins s = s.run (.error e)) ∧
    ∀ (l : Loc) (e : Stop), locate .int s s1 dst = .ok l →
      (s1.readLoc i.bytes l = .error e →
        ∀ ins ∈ [Instr.divi i src dst, .modi i src dst, .quoi i src dst, .remi i src dst],
          exec ins s = s.run (.error e)) ∧
      (s1.readPair i.bytes l = .error e → exec (.deii i src dst) s = s.run (.error e)) := by
  refine ⟨fun l d h0 hl hd ins hins => ?_, fun l d h0 hl hd => ?_, fun e hl ins hins => ?_, fun l e hl =>
    ⟨fun hd ins hins => ?_, fun hd => ?_⟩⟩
  · obtain ⟨f, he⟩ := exec_division hins
    simp only [he, divShape, ha, hl, hd, bind, Except.bind, if_pos h0, State.run_trap]
  · simp only [exec_deii, ha, hl, hd, bind, Except.bind, deiiBody, if_pos h0, State.run_trap]
  · rw [show [Instr.divi i src dst, .modi i src dst, .quoi i src dst, .remi i src dst, .deii i src dst]
      = [Instr.divi i src dst, .modi i src dst, .quoi i src dst, .remi i src dst] ++ [.deii i src dst] from rfl,
      List.mem_append, List.mem_singleton] at hins
    obtain hins | rfl := hins
    · obtain ⟨f, he⟩ := exec_division hins
      simp only [he, divShape, ha, hl, bind, Except.bind]
    · simp only [exec_deii, ha, hl, bind, Except.bind]
  · obtain ⟨f, he⟩ := exec_division hins
    simp only [he, divShape, ha, hl, hd, bind, Except.bind]
  · simp only [exec_deii, ha, hl, hd, bind, Except.bind]

/-- Settles O24: the model's integer divisions are the exact quotients rounded. -/
theorem division : Obligations.Division := by
  intro i src dst
  refine ⟨?_, ?_, ?_, ?_, fun s s1 a ha => division_stops ha⟩
  · exact divClaim_of_shape (g := fun d a => ⌊(d : ℚ) / a⌋) (fun _ => rfl) fun d a ha => (floor_div d ha).symm
  · exact divClaim_of_shape (g := fun d a => d - a * ⌊(d : ℚ) / a⌋) (fun _ => rfl) fun d a ha => by
      rw [floor_div d ha]
  · exact divClaim_of_shape (g := fun d a => truncated ((d : ℚ) / a)) (fun _ => rfl) fun d a ha =>
      (truncated_div d ha).symm
  · exact divClaim_of_shape (g := fun d a => d - a * truncated ((d : ℚ) / a)) (fun _ => rfl) fun d a ha => by
      rw [truncated_div d ha]

/-! ## Shifts (R301, R308 to R310) -/

/-- A shift whose count is below the length. -/
theorem shiftClaim_of_lt {i : IntLen} {ins : Instr} {cnt dst : Gen} {f : Nat → Int → Nat → Nat} {rel : Nat → Nat → Nat → Prop}
    (he : ∀ s, exec ins s = s.run (shiftShape i ins cnt dst f s))
    (hrel : ∀ a d, |signed 8 a| < i.bits → d < 2 ^ i.bits → rel a d (f i.bits (signed 8 a) d % 256 ^ i.bytes)) :
    RmwClaimIf (fun a _ => |signed 8 a| < i.bits) ins 1 i.bytes cnt dst [] (fun a d _ r _ => rel a d r) :=
  rmwClaimIf_of (by decide) i.bytes_le fun {s s1 a d l} ha hl hd hp _ hltd => by
    rw [IntLen.pow_bytes] at hltd
    refine ⟨s1.freeCount, f i.bits (signed 8 a) d, s1.psr, ?_, hrel a d hp hltd, fun _ _ => rfl⟩
    have hc : (signed 8 a).natAbs < i.bits := by rw [Int.abs_eq_natAbs] at hp; exact_mod_cast hp
    simp only [he, shiftShape, ha, hl, hd, bind, Except.bind, sext_eq_signed (show 0 < 8 by decide), if_pos hc]
    rfl

/-- A shift by the length or more completes with a free value (U22). -/
theorem shiftClaim_of_ge {i : IntLen} {ins : Instr} {cnt dst : Gen} {f : Nat → Int → Nat → Nat}
    (he : ∀ s, exec ins s = s.run (shiftShape i ins cnt dst f s)) :
    RmwClaimIf (fun a _ => i.bits ≤ |signed 8 a|) ins 1 i.bytes cnt dst [] (fun _ _ _ _ _ => True) :=
  rmwClaimIf_of (by decide) i.bytes_le fun {s s1 a d l} ha hl hd hp _ _ => by
    refine ⟨s1.freeCount + 1, (s1.freshNat i.bits).1, s1.psr, ?_, trivial, fun _ _ => rfl⟩
    have hc : ¬ (signed 8 a).natAbs < i.bits := by rw [Int.abs_eq_natAbs] at hp; exact not_lt.2 (by exact_mod_cast hp)
    simp only [he, shiftShape, ha, hl, hd, bind, Except.bind, sext_eq_signed (show 0 < 8 by decide), if_neg hc]
    rfl

theorem zpow_of_nonneg {c : Int} (h : 0 ≤ c) : (2 : ℚ) ^ c = ((2 ^ c.toNat : Int) : ℚ) := by
  conv_lhs => rw [← Int.toNat_of_nonneg h, zpow_natCast]
  push_cast
  rfl

theorem mul_zpow_of_neg (x : ℚ) {c : Int} (h : c < 0) : x * (2 : ℚ) ^ c = x / ((2 ^ (-c).toNat : Int) : ℚ) := by
  have hc : c = -(((-c).toNat : Nat) : Int) := by omega
  conv_lhs => rw [hc, zpow_neg, zpow_natCast]
  push_cast
  rfl

theorem two_pow_int_ne_zero (k : Nat) : (2 ^ k : Int) ≠ 0 := by positivity

theorem shiftArith_wrapped {bits : Nat} (hb : 0 < bits) (c : Int) (d : Nat) :
    shiftArith bits c d = wrapped bits ⌊(signed bits d : ℚ) * (2 : ℚ) ^ c⌋ := by
  unfold shiftArith
  split
  · rename_i h
    rw [zpow_of_nonneg h, ← Int.cast_mul, Int.floor_intCast, ← wrapped_natCast]
    refine wrapped_congr ?_
    rw [Int.mul_emod (signed bits d), signed_emod, ← Int.mul_emod]
    push_cast
    rfl
  · rename_i h
    rw [mul_zpow_of_neg _ (by omega), floor_div _ (two_pow_int_ne_zero _), trunc_eq_wrapped, sext_eq_signed hb]

theorem shiftLogical_wrapped {bits d : Nat} (c : Int) (hd : d < 2 ^ bits) :
    shiftLogical bits c d = wrapped bits ⌊(d : ℚ) * (2 : ℚ) ^ c⌋ := by
  unfold shiftLogical
  split
  · rename_i h
    rw [zpow_of_nonneg h, ← Int.cast_natCast (R := ℚ) d, ← Int.cast_mul, Int.floor_intCast, ← wrapped_natCast]
    push_cast
    rfl
  · rename_i h
    rw [mul_zpow_of_neg _ (by omega)]
    have hf : ⌊(d : ℚ) / ((2 ^ (-c).toNat : Int) : ℚ)⌋ = ((d / 2 ^ (-c).toNat : Nat) : Int) := by
      have := Rat.floor_natCast_div_natCast d (2 ^ (-c).toNat)
      push_cast at this ⊢
      exact this
    rw [hf, wrapped_natCast, Nat.mod_eq_of_lt ((Nat.div_le_self _ _).trans_lt hd)]

/-- Bit k of a value appears c places higher in the rotated value, wrapping (R310). -/
theorem testBit_rotate {bits d : Nat} (c : Int) (hb : 0 < bits) (hd : d < 2 ^ bits) {k : Nat} (hk : k < bits) :
    (rotate bits c d).testBit ((k + c) % bits).toNat = d.testBit k := by
  obtain ⟨m, hm⟩ : ∃ m : Nat, c % bits = m := ⟨(c % bits).toNat, by
    rw [Int.toNat_of_nonneg (Int.emod_nonneg _ (by omega))]⟩
  have hlt : m < bits := by have := Int.emod_lt_of_pos c (show (0 : Int) < bits by omega); omega
  have hpos : ((k : Int) + c) % bits = ((k + m) % bits : Nat) := by
    rw [← Int.add_emod_emod, hm]
    norm_cast
  rw [rotate, hm, hpos, Int.toNat_natCast, Int.toNat_natCast, Nat.testBit_mod_two_pow, Nat.testBit_or,
    Nat.testBit_mul_two_pow, Nat.testBit_div_two_pow, decide_eq_true (Nat.mod_lt _ hb), Bool.true_and]
  by_cases hw : k + m < bits
  · rw [Nat.mod_eq_of_lt hw, Nat.add_sub_cancel,
      Nat.testBit_lt_two_pow (hd.trans_le (Nat.pow_le_pow_right (by decide) (show bits ≤ k + m + (bits - m) by omega)))]
    simp
  · have he : (k + m) % bits = k + m - bits := by
      rw [Nat.mod_eq_sub_mod (by omega), Nat.mod_eq_of_lt (by omega)]
    rw [he, decide_eq_false (by omega), Bool.false_and, Bool.false_or]
    congr 1
    omega

/-- Settles O29: the two shifts by their value, the rotation bit by bit. -/
theorem shifts : Obligations.Shifts := by
  intro i cnt dst
  have hfit {x : Nat} (h : x < 2 ^ i.bits) : x % 256 ^ i.bytes = x := by rw [IntLen.pow_bytes, Nat.mod_eq_of_lt h]
  refine ⟨?_, ?_, ?_, shiftClaim_of_ge fun _ => rfl, shiftClaim_of_ge fun _ => rfl, shiftClaim_of_ge fun _ => rfl⟩
  · refine shiftClaim_of_lt (fun _ => rfl) fun a d _ hd => ?_
    rw [shiftArith_wrapped i.bits_pos, wrapped_mod_bytes]
  · refine shiftClaim_of_lt (fun _ => rfl) fun a d _ hd => ?_
    rw [shiftLogical_wrapped _ hd, wrapped_mod_bytes]
  · refine shiftClaim_of_lt (fun _ => rfl) fun a d _ hd k hk => ?_
    rw [hfit (show rotate i.bits (signed 8 a) d < _ from Nat.mod_lt _ (Nat.two_pow_pos _))]
    exact testBit_rotate _ i.bits_pos hd hk

end Sys2Proof.Machine
end

section
/-! PROOFS. The packed decimal instructions (41_packed_decimal.md). -/
namespace Sys2Proof.Machine

/-! ## Digits (R240, R241) -/

theorem bcdDigit_succ (v k : Nat) : bcdDigit v (k + 1) = bcdDigit (v / 16) k := by
  rw [bcdDigit, bcdDigit, Nat.pow_succ', Nat.div_div_eq_div_mul]

theorem bcdDigit_zero (v : Nat) : bcdDigit v 0 = v % 16 := by rw [bcdDigit, Nat.pow_zero, Nat.div_one]

theorem validBcd_iff {k x : Nat} : validBcd k x = true ↔ ∀ j < k, bcdDigit x j ≤ 9 := by
  induction k generalizing x with
  | zero => simp [validBcd]
  | succ k ih =>
    rw [validBcd, Bool.and_eq_true, decide_eq_true_iff, ih, Nat.forall_lt_succ_left, bcdDigit_zero]
    simp only [bcdDigit_succ]

theorem bcdValue_eq_sum (k x : Nat) : bcdValue k x = ∑ j ∈ Finset.range k, bcdDigit x j * 10 ^ j := by
  induction k generalizing x with
  | zero => rfl
  | succ k ih =>
    rw [bcdValue, ih, Finset.sum_range_succ', bcdDigit_zero, Nat.pow_zero, Nat.mul_one, Nat.add_comm, Finset.mul_sum]
    congr 1
    refine Finset.sum_congr rfl fun j _ => ?_
    rw [bcdDigit_succ, Nat.pow_succ', Nat.mul_left_comm]

theorem bcdValue_lt {k x : Nat} (h : validBcd k x = true) : bcdValue k x < 10 ^ k := by
  induction k generalizing x with
  | zero => exact Nat.one_pos
  | succ k ih =>
    rw [validBcd, Bool.and_eq_true, decide_eq_true_iff] at h
    have := ih h.2
    have := h.1
    rw [bcdValue, Nat.pow_succ']
    omega

theorem toBcd_lt (k v : Nat) : toBcd k v < 16 ^ k := by
  induction k generalizing v with
  | zero => exact Nat.one_pos
  | succ k ih =>
    have := ih (v / 10)
    rw [toBcd, Nat.pow_succ']
    omega

theorem validBcd_toBcd (k v : Nat) : validBcd k (toBcd k v) = true := by
  induction k generalizing v with
  | zero => rfl
  | succ k ih =>
    have hmod : (v % 10 + 16 * toBcd k (v / 10)) % 16 = v % 10 := by omega
    have hdiv : (v % 10 + 16 * toBcd k (v / 10)) / 16 = toBcd k (v / 10) := by omega
    rw [toBcd, validBcd, hmod, hdiv, ih, Bool.and_true, decide_eq_true_iff]
    omega

theorem bcdValue_toBcd (k v : Nat) : bcdValue k (toBcd k v) = v % 10 ^ k := by
  induction k generalizing v with
  | zero => rw [Nat.pow_zero, Nat.mod_one]; rfl
  | succ k ih =>
    have hmod : (v % 10 + 16 * toBcd k (v / 10)) % 16 = v % 10 := by omega
    have hdiv : (v % 10 + 16 * toBcd k (v / 10)) / 16 = toBcd k (v / 10) := by omega
    rw [toBcd, bcdValue, hmod, hdiv, ih, Nat.pow_succ', Nat.mod_mul]

/-! ## The claims -/

theorem decimal_iff (i : IntLen) (v : Nat) : validBcd (digits i) v = true ↔ Decimal i.bytes v := validBcd_iff

theorem decimalValue_eq (i : IntLen) (v : Nat) : bcdValue (digits i) v = decimalValue i.bytes v := bcdValue_eq_sum _ _

/-- What a decimal instruction delivers for a value below 10^D (R242, R243). -/
theorem decimal_toBcd (i : IntLen) {v : Nat} (h : v < 10 ^ (2 * i.bytes)) :
    Decimal i.bytes (toBcd (digits i) v % 256 ^ i.bytes) ∧
      decimalValue i.bytes (toBcd (digits i) v % 256 ^ i.bytes) = v := by
  have hp : 16 ^ digits i = 256 ^ i.bytes := by rw [digits, Nat.pow_mul]
  rw [Nat.mod_eq_of_lt ((toBcd_lt _ _).trans_eq hp), ← decimal_iff, ← decimalValue_eq, bcdValue_toBcd,
    Nat.mod_eq_of_lt (show v < 10 ^ digits i from h)]
  exact ⟨validBcd_toBcd _ _, rfl⟩

/-- A decimal instruction on legal digits, by the result and the carry its function gives. -/
theorem decimalClaim_of_legal {i : IntLen} {ins : Instr} {src dst : Gen} {f : Nat → Nat → Nat → Nat × Bool}
    {value : Nat → Nat → Nat → Nat → Prop} {carry : Nat → Nat → Nat → Prop}
    (he : ∀ s, exec ins s = s.run (decimalShape i ins src dst f s))
    (hf : ∀ a d c, a < 10 ^ (2 * i.bytes) → d < 10 ^ (2 * i.bytes) → c ≤ 1 →
      (f a d c).1 < 10 ^ (2 * i.bytes) ∧ value a d c (f a d c).1 ∧ ((f a d c).2 = true ↔ carry a d c)) :
    RmwClaimIf (fun a d => Decimal i.bytes a ∧ Decimal i.bytes d) ins i.bytes i.bytes src dst [.c, .f]
      (fun a d w r w' => Decimal i.bytes r ∧
        value (decimalValue i.bytes a) (decimalValue i.bytes d) (flag w .c).toNat (decimalValue i.bytes r) ∧
        (flag w' .c = true ↔ carry (decimalValue i.bytes a) (decimalValue i.bytes d) (flag w .c).toNat) ∧
        flag w' .f = false) :=
  rmwClaimIf_of i.bytes_le i.bytes_le fun {s s1 a d l} ha hl hd hp _ _ => by
    obtain ⟨ha', hd'⟩ := hp
    rw [← decimal_iff] at ha' hd'
    have hlta := bcdValue_lt ha'
    have hltd := bcdValue_lt hd'
    have he' : exec ins s = s.run (s1.deliverNext ins (putFlag (putFlag s1.psr .c
        (f (bcdValue (digits i) a) (bcdValue (digits i) d) (s.flag .c).toNat).2) .f false) i.bytes
        (toBcd (digits i) (f (bcdValue (digits i) a) (bcdValue (digits i) d) (s.flag .c).toNat).1) l) := by
      simp only [he, decimalShape, ha, hl, hd, bind, Except.bind, ha', hd', Bool.and_self, if_true]
      rfl
    rw [decimalValue_eq] at hlta hltd
    simp only [decimalValue_eq] at he'
    obtain ⟨hlt, hvalue, hcarry⟩ := hf _ _ (s.flag .c).toNat hlta hltd (Bool.toNat_le _)
    obtain ⟨hdec, hval⟩ := decimal_toBcd i hlt
    refine ⟨s1.freeCount, _, _, he', ⟨hdec, ?_, ?_, flag_putFlag_same ..⟩, fun k hk => flag_putFlag_two hk⟩
    · rw [hval]
      exact hvalue
    · rw [flag_putFlag_other _ _ (by decide), flag_putFlag_same]
      exact hcarry

/-- A decimal instruction on other digits completes with free values (U13). -/
theorem decimalClaim_of_illegal {i : IntLen} {ins : Instr} {src dst : Gen} {f : Nat → Nat → Nat → Nat × Bool}
    (he : ∀ s, exec ins s = s.run (decimalShape i ins src dst f s)) :
    RmwClaimIf (fun a d => ¬ (Decimal i.bytes a ∧ Decimal i.bytes d)) ins i.bytes i.bytes src dst [.c, .f]
      (fun _ _ _ _ w' => flag w' .f = false) :=
  rmwClaimIf_of i.bytes_le i.bytes_le fun {s s1 a d l} ha hl hd hp _ _ => by
    rw [← decimal_iff, ← decimal_iff, ← Bool.and_eq_true] at hp
    refine ⟨s1.freeCount + 1, (s1.freshNat 33).1 % 2 ^ i.bits,
      putFlag (putFlag s1.psr .c (decide (2 ^ 32 ≤ (s1.freshNat 33).1))) .f false, ?_, flag_putFlag_same .., fun k hk =>
      flag_putFlag_two hk⟩
    simp only [he, decimalShape, ha, hl, hd, bind, Except.bind, if_neg hp]
    rfl

theorem sub_borrow {m d a c : Nat} (ha : a < m) (hc : c ≤ 1) (h : d < a + c) :
    ((d + m - (a + c) : Nat) : Int) = ((d : Int) - a - c) % m := by
  rw [← Int.add_emod_right, Int.emod_eq_of_lt (by omega) (by omega)]
  omega

theorem sub_noBorrow {m d a c : Nat} (hd : d < m) (h : ¬ d < a + c) :
    ((d - (a + c) : Nat) : Int) = ((d : Int) - a - c) % m := by
  rw [Int.emod_eq_of_lt (by omega) (by omega)]
  omega

/-- Settles O27: legal digits by their sum or difference, the others with free values. -/
theorem packedDecimal : Obligations.PackedDecimal := by
  intro i src dst
  refine ⟨?_, ?_, decimalClaim_of_illegal fun _ => rfl, decimalClaim_of_illegal fun _ => rfl⟩
  · exact decimalClaim_of_legal (value := fun a d c r => r = (d + a + c) % 10 ^ (2 * i.bytes))
      (carry := fun a d c => 10 ^ (2 * i.bytes) ≤ d + a + c) (fun _ => rfl) fun a d c _ _ _ =>
      ⟨Nat.mod_lt _ (by positivity), rfl, decide_eq_true_iff⟩
  · refine decimalClaim_of_legal (value := fun a d c r => (r : Int) = ((d : Int) - a - c) % 10 ^ (2 * i.bytes))
      (carry := fun a d c => d < a + c) (fun _ => rfl) fun a d c ha hd hc => ?_
    by_cases h : d < a + c
    · rw [if_pos h]
      refine ⟨?_, ?_, iff_of_true rfl h⟩
      · dsimp only [digits]
        omega
      · exact_mod_cast sub_borrow ha hc h
    · rw [if_neg h]
      refine ⟨by dsimp only; omega, ?_, iff_of_false Bool.false_ne_true h⟩
      exact_mod_cast sub_noBorrow hd h

end Sys2Proof.Machine
end

section
/-! PROOFS. The extended integers MEIi and DEIi (40_integer.md sections 4 and 5). -/
namespace Sys2Proof.Machine

/-- An operand of a pair of halves that can be read can be written, and nothing else changes (R145 item 3, R166). -/
theorem State.writePair_ok {s : State} {n lo hi : Nat} {old : Nat × Nat} {l : Loc} (hr : s.readPair n l = .ok old)
    (hn : n ≤ 4) (hlo : lo < 256 ^ n) (hhi : hi < 256 ^ n) (hw : s.mem.wf = true) (hx : s.cut = .never) :
    ∃ t, s.writePair n lo hi l = .ok t ∧ t.readPair n l = .ok (lo, hi) ∧ OnlyAtPair l n s t ∧ t.psr = s.psr ∧
      t.pc = s.pc ∧ SameStack s t ∧ SameControl s t ∧ t.cut = .never := by
  cases l with
  | gpr k =>
    obtain ⟨⟨e, o⟩, hp, -⟩ := Res.bind_ok hr
    obtain ⟨rfl, rfl, -, hne⟩ := pairOf_ok hp
    have ne {i j : Fin 8} (h : j ≠ i) : ¬ i.val = j.val := fun e => h (Fin.ext e.symm)
    have hlow : ((s.setRegLow e n lo).setRegLow (e + 1) n hi).r[e] = mergeLow s.r[e] n lo := by
      simp only [State.setRegLow_r, Fin.getElem_fin]
      rw [Vector.getElem_set_ne _ _ (ne hne.symm), Vector.getElem_set_self]
    have hhigh : ((s.setRegLow e n lo).setRegLow (e + 1) n hi).r[e + 1] = mergeLow s.r[e + 1] n hi := by
      simp only [State.setRegLow_r, Fin.getElem_fin]
      rw [Vector.getElem_set_self, Vector.getElem_set_ne _ _ (ne hne)]
    refine ⟨(s.setRegLow e n lo).setRegLow (e + 1) n hi, ?_, ?_, ⟨?_, ?_, ?_, fun _ _ => rfl, fun _ => rfl⟩, ?_⟩
    · simp only [State.writePair, hp, bind, Except.bind]
    · simp only [State.readPair, hp, bind, Except.bind, State.regLow, hlow, hhigh, mergeLow_mod _ _ hn,
        Nat.mod_eq_of_lt hlo, Nat.mod_eq_of_lt hhi]
    · intro j hj
      simp only [List.mem_cons, List.not_mem_nil, or_false, not_or] at hj
      simp only [State.setRegLow_r, Fin.getElem_fin]
      rw [Vector.getElem_set_ne _ _ (ne hj.2), Vector.getElem_set_ne _ _ (ne hj.1)]
    · rw [hlow, mergeLow_div _ _ hn]
    · rw [hhigh, mergeLow_div _ _ hn]
    · simp [SameStack, SameControl, SameBases, SameSystem, hx]
  | fpr k => cases hr
  | mem a =>
    obtain ⟨v, hv, -⟩ := Res.bind_ok hr
    obtain ⟨-, hc, -⟩ := State.memRead_ok.1 hv
    have hb := (checkAccess_ok.1 hc).1
    have hsq : 256 ^ (2 * n) = 256 ^ n * 256 ^ n := by rw [Nat.two_mul, Nat.pow_add]
    have hlt : lo + 256 ^ n * hi < 256 ^ (2 * n) := by
      rw [hsq]
      calc lo + 256 ^ n * hi < 256 ^ n * (hi + 1) := by rw [Nat.mul_add]; omega
        _ ≤ 256 ^ n * 256 ^ n := Nat.mul_le_mul_left _ hhi
    refine ⟨_, State.memWrite_never _ hx hc, ?_, ⟨fun _ _ => rfl, fun _ _ => rfl, fun x hx =>
      Memory.read_writeLE_outside hw hb hx⟩, ?_⟩
    · have hback := State.memRead_never (s := { s with mem := s.mem.writeLE a.toNat (2 * n) (lo % 256 ^ n + 256 ^ n * hi) })
        hx hc
      have hpos : 0 < 256 ^ n := by positivity
      rw [Memory.readLE_writeLE hw hb, Nat.mod_eq_of_lt hlo, Nat.mod_eq_of_lt hlt] at hback
      simp only [State.readPair, Nat.mod_eq_of_lt hlo, hback, bind, Except.bind, Nat.add_mul_mod_self_left,
        Nat.add_mul_div_left _ _ hpos, Nat.div_eq_of_lt hlo, Nat.zero_add]
    · simp [SameStack, SameControl, SameBases, SameSystem, hx]

/-- A value read is its low part and, above it, the value of the bytes that follow (R82). -/
theorem Memory.readLE_add (m : Memory) (a j k : Nat) :
    m.readLE a (j + k) = m.readLE a j + 256 ^ j * m.readLE (a + j) k := by
  induction j generalizing a with
  | zero => simp [Memory.readLE]
  | succ j ih =>
    rw [Nat.add_right_comm, Memory.readLE, ih, Memory.readLE, Nat.mul_add, Nat.pow_succ',
      Nat.mul_assoc, Nat.add_assoc a 1 j, Nat.add_comm 1 j, Nat.add_assoc]

/-- A pair that can be read has halves of the length, and its low half can be read. -/
theorem State.readPair_ok {s : State} {n lo hi : Nat} {l : Loc} (h : s.readPair n l = .ok (lo, hi)) (hx : s.cut = .never) :
    lo < 256 ^ n ∧ hi < 256 ^ n ∧ s.readLow n l = .ok lo := by
  have hpos : 0 < 256 ^ n := by positivity
  cases l with
  | gpr k =>
    obtain ⟨⟨e, o⟩, hp, h⟩ := Res.bind_ok h
    cases h
    exact ⟨Nat.mod_lt _ hpos, Nat.mod_lt _ hpos, by simp only [State.readLow, hp, bind, Except.bind]⟩
  | fpr k => cases h
  | mem a =>
    obtain ⟨v, hv, h⟩ := Res.bind_ok h
    obtain ⟨-, hc, rfl⟩ := State.memRead_ok.1 hv
    cases h
    refine ⟨Nat.mod_lt _ hpos, ?_, ?_⟩
    · refine Nat.div_lt_of_lt_mul ?_
      rw [← Nat.pow_add, ← Nat.two_mul]
      exact Memory.readLE_lt _ _ _
    · have hlow := State.memRead_never hx (checkAccess_part (m := n) hc le_rfl (by omega))
      rw [State.readLow, hlow, Nat.two_mul, Memory.readLE_add, Nat.add_mul_mod_self_left,
        Nat.mod_eq_of_lt (Memory.readLE_lt _ _ _)]

theorem State.readPair_congr {s t : State} (hr : t.r = s.r) (hm : t.mem = s.mem) (hs : s.cut = .never)
    (ht : t.cut = .never) (n : Nat) (l : Loc) : t.readPair n l = s.readPair n l := by
  cases l <;> simp [State.readPair, State.regLow, State.memRead, hr, hm, hs, ht]

theorem OnlyAtPair.congr {s t s' t' : State} {l : Loc} {n : Nat} (h : OnlyAtPair l n s t) (hr : s'.r = s.r)
    (hf : s'.f = s.f) (hm : s'.mem = s.mem) (hr' : t'.r = t.r) (hf' : t'.f = t.f) (hm' : t'.mem = t.mem) :
    OnlyAtPair l n s' t' := by
  cases l with
  | fpr k => exact h
  | gpr k => simpa only [OnlyAtPair, SameRegs, SameFpRegs, SameMemory, hr, hf, hm, hr', hf', hm'] using h
  | mem a => simpa only [OnlyAtPair, SameRegs, SameFpRegs, SameOutside, hr, hf, hm, hr', hf', hm'] using h

/-- `ins` with operands `src read.n, dest rmw.2i` writes both halves of dest, whatever free values it draws. -/
theorem pairClaimIf_of {pre : Nat → Nat → Nat → Prop} {ins : Instr} {n : Nat} {src dst : Gen}
    {rel : Nat → Nat → Nat → Nat → Nat → Prop} (hn : n ≤ 4)
    (h : ∀ {s s1 : State} {a lo hi : Nat} {l : Loc}, readOp .int n s s src = .ok (a, s1) →
      locate .int s s1 dst = .ok l → s1.readPair n l = .ok (lo, hi) → s1.readLow n l = .ok lo → pre a lo hi →
      a < 256 ^ n → lo < 256 ^ n → hi < 256 ^ n →
      ∃ (c r q : Nat), exec ins s = s.run (({ s1 with freeCount := c } : State).writePair n r q l >>= fun t =>
          .ok (t.advance ins)) ∧ r < 256 ^ n ∧ q < 256 ^ n ∧ rel a lo hi r q) :
    PairClaimIf pre ins n src dst rel := by
  intro s s1 a lo hi l hw hx ha hl hd hp
  obtain ⟨-, -, hm, -, hpc, -, hq, -⟩ := readOp_frame ha
  obtain ⟨hlo, hhi, hlow⟩ := State.readPair_ok hd (hq hx)
  obtain ⟨c, r, q, he, hr, hq', hrel⟩ := h ha hl hd hlow hp (readOp_lt ha (fun _ => hn) nofun) hlo hhi
  have hd' : ({ s1 with freeCount := c } : State).readPair n l = .ok (lo, hi) := by
    rw [← hd]
    exact State.readPair_congr (s := s1) (t := { s1 with freeCount := c }) rfl rfl (hq hx) (hq hx) n l
  obtain ⟨s2, h2, hv, ho, hpsr, hp2, hs, hc, hy⟩ := State.writePair_ok hd' hn hr hq' (hm ▸ hw) (hq hx)
  refine ⟨s2.advance ins, r, q, ?_, ?_, hrel, ?_, ?_, ?_, ?_, ?_⟩
  · rw [he, h2]
    exact State.run_next.2 (.inl rfl)
  · rw [← hv]
    exact State.readPair_congr (by simp) (by simp) hy (by simp [hy]) _ _
  · exact OnlyAtPair.congr ho rfl rfl rfl (by simp) (by simp) (by simp)
  · intro k _
    simp [State.flag, hpsr]
  · simpa [SameStack] using hs
  · simpa [SameControl, SameBases, SameSystem] using hc
  · intro h
    have := State.advance_next s2 ins (by simpa [hp2, hpc] using h)
    simpa [hp2, hpc] using this

/-- Settles O23: the pair is read and written in halves that make the whole number. -/
theorem extendedIntegers : Obligations.ExtendedIntegers := by
  intro i src dst
  refine ⟨?_, ?_, ?_⟩
  · refine pairClaimIf_of i.bytes_le fun {s s1 a lo hi l} ha hl hd hlow _ hlta hltlo hlthi => ?_
    rw [IntLen.pow_bytes] at hlta hltlo ⊢
    refine ⟨s1.freeCount, a * lo % 2 ^ i.bits, a * lo / 2 ^ i.bits, ?_, Nat.mod_lt _ (Nat.two_pow_pos _), ?_,
      Nat.mod_add_div _ _⟩
    · change execMeii i src dst s = _
      simp only [execMeii, ha, hl, hlow, bind, Except.bind]
    · exact Nat.div_lt_of_lt_mul (Nat.mul_lt_mul'' hlta hltlo)
  · refine pairClaimIf_of i.bytes_le fun {s s1 a lo hi l} ha hl hd hlow hp hlta hltlo hlthi => ?_
    obtain ⟨h0, hfit⟩ := hp
    rw [IntLen.pow_bytes] at hlta ⊢
    refine ⟨s1.freeCount, (lo + 2 ^ i.bits * hi) % a, (lo + 2 ^ i.bits * hi) / a, ?_, ?_, hfit, ?_, ?_⟩
    · simp only [exec_deii, ha, hl, hd, bind, Except.bind, deiiBody, if_neg h0, if_pos hfit]
    · exact (Nat.mod_lt _ (by omega)).trans hlta
    · rw [Nat.mul_comm, Nat.div_add_mod]
    · exact Nat.mod_lt _ (by omega)
  · refine pairClaimIf_of i.bytes_le fun {s s1 a lo hi l} ha hl hd hlow hp hlta hltlo hlthi => ?_
    obtain ⟨h0, hfit⟩ := hp
    have hv : (s1.freshNat (2 * i.bits)).1 < 2 ^ (2 * i.bits) := Nat.mod_lt _ (Nat.two_pow_pos _)
    rw [IntLen.pow_bytes]
    refine ⟨s1.freeCount + 1, (s1.freshNat (2 * i.bits)).1 % 2 ^ i.bits, (s1.freshNat (2 * i.bits)).1 / 2 ^ i.bits, ?_,
      Nat.mod_lt _ (Nat.two_pow_pos _), ?_, trivial⟩
    · simp only [exec_deii, ha, hl, hd, bind, Except.bind, deiiBody, if_neg h0, if_neg (not_lt.2 hfit)]
      rfl
    · refine Nat.div_lt_of_lt_mul ?_
      rwa [← Nat.pow_add, ← Nat.two_mul]

end Sys2Proof.Machine
end

section
/-! PROOFS. Addresses stored, the configuration and processor registers, memory management and the slaves
(48_processor_service.md, 49_memory_management_and_custom.md). -/
namespace Sys2Proof.Machine

/-! ## Passing control on -/

theorem run_ok (s t : State) : s.run (.ok t) = .next t := State.run_next.2 (.inl rfl)

/-- Control passes to the next instruction from whatever state still has the PC it started with. -/
theorem advance_next_of {s u : State} (h : u.pc = s.pc) (i : Instr) : NextSequential i s (u.advance i) := by
  intro hlt
  rw [← h]
  exact State.advance_next u i (by rwa [h])

/-- The general form of a `dest write` that comes last. -/
theorem writeOp_next {s s2 : State} {n : Nat} {dst : Gen} {l : Loc} (ins : Instr) (v : Nat)
    (hl : locateWrite .int n s s dst = .ok (l, s2)) :
    (writeOp .int n v s s dst >>= fun t => .ok (t.advance ins)) = s2.deliverNext ins s2.psr n v l := by
  rw [writeOp, hl]
  rfl

/-! ## Addresses (R338, R440, R441) -/

theorem addressClaim {ins : Instr} {src dst : Gen} {a : Dword} {f : State → Dword → Nat}
    (he : ∀ s, exec ins s = s.run (addrOf s s src >>= fun a => writeOp .int 4 (f s a) s s dst >>= fun t =>
      .ok (t.advance ins))) :
    StoreClaim ins 4 dst (fun s => addrOf s s src = .ok a) (fun s r => r = f s a % 2 ^ 32) :=
  storeClaim_of le_rfl fun {s s2 l} ha hl => by
    refine ⟨f s a, ?_, rfl⟩
    rw [he, ha]
    exact congrArg s.run (writeOp_next ins _ hl)

/-- Settles O36: all three store a double-word computed from an effective address. -/
theorem addressStores : Obligations.AddressStores := by
  intro src dst d1 d2 off a
  have hlt : a.toNat % 2 ^ 32 = a.toNat := Nat.mod_eq_of_lt a.isLt
  refine ⟨?_, ?_, ?_⟩
  · have h := addressClaim (ins := .addr src dst) (src := src) (dst := dst) (a := a) (f := fun _ a => a.toNat)
      fun _ => rfl
    rwa [hlt] at h
  · have h := addressClaim (ins := .lxpd d1 d2 dst) (src := .mode (.ext d1 d2)) (dst := dst) (a := a)
      (f := fun _ a => a.toNat) fun _ => rfl
    rwa [hlt] at h
  · have h := addressClaim (ins := .cvtp off src dst) (src := src) (dst := dst) (a := a)
      (f := fun s a => (8#32 * a + s.r[off]).toNat) fun _ => rfl
    simpa only [BitVec.toNat_add, BitVec.toNat_mul, BitVec.toNat_ofNat, Nat.mod_add_mod, Nat.mod_mod,
      show 8 % 2 ^ 32 = 8 from rfl] using h

/-! ## Configuration (R456 to R459) -/

theorem setcfg_attached (c : BitVec 4) : ¬ c &&& ~~~Config.attached ≠ 0#4 := by revert c; decide

/-- Settles O51: three updates of the state, then control passed on. -/
theorem configureWait : Obligations.ConfigureWait := by
  intro s c
  refine ⟨fun hu => ?_, ⟨_, rfl, s.advance_onlyControl .nop, s.advance_next .nop⟩, ?_, ?_⟩
  · have he : exec (.setcfg c) s = .next (({ s with cfg := c } : State).advance (.setcfg c)) := by
      change execSetcfg c s = _
      rw [execSetcfg, if_neg (by rw [hu]; decide), if_neg (setcfg_attached c)]
      exact run_ok _ _
    refine ⟨_, he, ?_⟩
    have hnext : NextSequential (.setcfg c) s (({ s with cfg := c } : State).advance (.setcfg c)) :=
      advance_next_of (u := { s with cfg := c }) rfl _
    simpa [SameRegs, SameFpRegs, SameMemory, SameFlags, SameStack, SameBases, State.flag] using hnext
  · exact ⟨_, rfl, State.advance_waiting _ _, State.advance_onlyControl _ _,
      advance_next_of (u := { s with waiting := true }) rfl _⟩
  · refine ⟨s.branch 0, rfl, ?_, ?_⟩
    · rw [State.branch_pc, State.sum24, if_pos (by have := s.pc.isLt; omega)]
      exact BitVec.eq_of_toNat_eq (by have := s.pc.isLt; simp only [Int.add_zero, Int.toNat_natCast, BitVec.toNat_ofNat]; omega)
    · simp [OnlyControl, SameData, SameRegs, SameFpRegs, SameMemory, SameFlags, SameStack, SameControl, SameBases,
        SameSystem]

/-! ## Memory management (R482 to R488) -/

theorem mmuGuard_body {s : State} (hm : s.cfgM = true) (hu : s.flag .u = false) (x : Res State) : mmuGuard s x = x := by
  rw [mmuGuard, if_neg (by simp [hm]), if_neg (by simp [hu])]

theorem mmuGuard_und {s : State} (hm : s.cfgM = false) (x : Res State) :
    s.run (mmuGuard s x) = finish (s.trap .und) := by
  rw [mmuGuard, if_pos (by simp [hm]), State.run_trap]

theorem exec_lmr {s s1 : State} {m : MmuReg} {g : Gen} {v : Nat} (hm : s.cfgM = true) (hu : s.flag .u = false)
    (hv : readOp .int 4 s s g = .ok (v, s1)) : exec (.lmr m g) s =
      .next (({ s1 with mmu := setMmuReg s1.mmu m (BitVec.ofNat 32 v) } : State).advance (.lmr m g)) := by
  change s.run (mmuGuard s (readOp .int 4 s s g >>= fun p =>
    .ok (({ p.2 with mmu := setMmuReg p.2.mmu m (BitVec.ofNat 32 p.1) } : State).advance (.lmr m g)))) = _
  rw [mmuGuard_body hm hu, hv]
  exact run_ok _ _

theorem exec_validate {s : State} {g : Gen} {ins : Instr} {a : Dword} (hi : ins = .rdval g ∨ ins = .wrval g)
    (hm : s.cfgM = true) (hu : s.flag .u = false) (ha : addrOf s s g = .ok a) :
    exec ins s = s.run (match s.input.mmu with
      | .ok => .ok ((s.setFlag .f false).advance ins)
      | .denied => .ok ((s.setFlag .f true).advance ins)
      | .level1Invalid => s.abort) := by
  have he : exec ins s = s.run (validateShape ins g s) := by obtain rfl | rfl := hi <;> rfl
  rw [he, validateShape, mmuGuard_body hm hu, ha]
  rfl

theorem setFlag_advance (s : State) (j : Flag) (b : Bool) (i : Instr) :
    ((s.setFlag j b).advance i).flag j = b ∧ OnlyControl [j] s ((s.setFlag j b).advance i) ∧
      NextSequential i s ((s.setFlag j b).advance i) := by
  refine ⟨?_, ⟨?_, fun k hk => ?_⟩, advance_next_of (u := s.setFlag j b) rfl i⟩
  · rw [State.advance_flag]
    exact flag_putFlag_same ..
  · simp [SameData, SameRegs, SameFpRegs, SameMemory, SameStack, SameControl, SameBases, SameSystem]
  · rw [State.advance_flag]
    exact flag_putFlag_other _ _ (List.ne_of_not_mem_cons hk)

/-- Settles O52: the guard passes, and each body is one read, one write or one answer. -/
theorem memoryManagement : Obligations.MemoryManagement := by
  refine ⟨fun m g s s1 v hm hu hv => ?_, fun m g => ?_, fun g s a ins hm hu hi ha => ⟨fun h => ?_, fun h => ?_⟩⟩
  · obtain ⟨-, -, -, -, hpc, ⟨-, ⟨-, hmmu, -⟩, -⟩, -, -⟩ := readOp_frame hv
    refine ⟨_, exec_lmr hm hu hv, ?_, ?_, ?_⟩
    · rw [State.advance_mmu, hmmu]
      cases m <;> rfl
    · rw [State.advance_mmu]
      exact State.advance_onlyControl _ _
    · exact advance_next_of (u := { s1 with mmu := setMmuReg s1.mmu m (BitVec.ofNat 32 v) }) hpc _
  · refine storeClaim_of le_rfl fun {s s2 l} hp hl => ⟨(getMmuReg s.mmu m).toNat, ?_, ?_⟩
    · change s.run (mmuGuard s (writeOp .int 4 (getMmuReg s.mmu m).toNat s s g >>= fun t =>
        .ok (t.advance (.smr m g)))) = _
      rw [mmuGuard_body hp.1 hp.2, writeOp_next _ _ hl]
    · cases m <;> exact Nat.mod_eq_of_lt (BitVec.isLt _)
  · rw [exec_validate hi hm hu ha]
    cases hx : s.input.mmu with
    | ok => exact ⟨_, run_ok _ _, by simpa using setFlag_advance s .f false ins⟩
    | denied => exact ⟨_, run_ok _ _, by simpa using setFlag_advance s .f true ins⟩
    | level1Invalid => exact absurd hx h
  · rw [exec_validate hi hm hu ha, h]
    exact State.run_takeException ..

/-- Where MOVSUi and MOVUSi come to write (R485, R486). -/
theorem exec_spaceMove {i : IntLen} {src dst : Gen} {s : State} {a b : Dword} {v : Nat} {ins : Instr}
    (hi : ins = .movsui i src dst ∨ ins = .movusi i src dst) (hu : s.flag .u = false) (ha : addrOf s s src = .ok a)
    (hb : addrOf s s dst = .ok b) (hv : s.memRead a i.bytes = .ok v) :
    exec ins s = s.run (s.deliverNext ins s.psr i.bytes v (.mem b)) := by
  obtain rfl | rfl := hi
  · change execMovsui i src dst s = _
    simp only [execMovsui, hu, ha, hb, hv, bind, Except.bind, Bool.false_eq_true, if_false]
    rfl
  · change execMovusi i src dst s = _
    simp only [execMovusi, hu, ha, hb, hv, bind, Except.bind, Bool.false_eq_true, if_false]
    rfl

theorem exec_movsui_user {i : IntLen} {src dst : Gen} {s : State} (hu : s.flag .u = false) :
    exec (.movsui i src dst) s = s.run (addrOf s s src >>= fun a => addrOf s s dst >>= fun b =>
      s.memRead a i.bytes >>= fun v => s.memWrite b i.bytes v >>= fun t => .ok (t.advance (.movsui i src dst))) :=
  congrArg s.run (if_neg (by simp [hu]))

theorem exec_movusi_user {i : IntLen} {src dst : Gen} {s : State} (hu : s.flag .u = false) :
    exec (.movusi i src dst) s = s.run (addrOf s s src >>= fun a => s.memRead a i.bytes >>= fun v =>
      addrOf s s dst >>= fun b => s.memWrite b i.bytes v >>= fun t => .ok (t.advance (.movusi i src dst))) :=
  congrArg s.run (if_neg (by simp [hu]))

/-- Settles O53: both come to one write, each with its order of accesses. -/
theorem spaceMoves : Obligations.SpaceMoves := by
  intro i src dst s a hu ha
  refine ⟨fun ins b v old hi hw hx hb hv hold => ?_, fun e => ⟨fun hb => ?_, fun hv => ?_, fun b v =>
    ⟨fun hb hv => ?_, fun hv hb => ?_⟩⟩⟩
  · obtain ⟨t, ht, hread, hpsr, ⟨hr, hf, hout⟩, hflags, hstack, hcontrol, hnext⟩ :=
      exec_deliverNext (s1 := s) (flags := []) (c := s.freeCount) (exec_spaceMove hi hu ha hb hv) hold trivial hw hx rfl
        (fun _ _ => rfl)
    obtain ⟨-, -, rfl⟩ := State.memRead_ok.1 hv
    rw [Nat.mod_eq_of_lt (Memory.readLE_lt _ _ _)] at hread
    exact ⟨t, ht, hread, hr, hf, hout, hflags, hstack, hcontrol, hnext⟩
  · rw [exec_movsui_user hu, ha, hb]
    rfl
  · rw [exec_movusi_user hu, ha]
    change s.run (s.memRead a i.bytes >>= _) = _
    rw [hv]
    rfl
  · rw [exec_movsui_user hu, ha, hb]
    change s.run (s.memRead a i.bytes >>= _) = _
    rw [hv]
    rfl
  · rw [exec_movusi_user hu, ha, hb]
    change s.run (s.memRead a i.bytes >>= _) = _
    rw [hv]
    rfl

/-! ## Slaves (R265, R482, R491, R492) -/

theorem fpGuard_und {s : State} (hf : s.cfgF = false) (x : Res State) :
    s.run (fpGuard s x) = finish (s.trap .und) := by
  rw [fpGuard, if_neg (by simp [hf]), State.run_trap]

theorem custom_und {s : State} (hc : s.cfgC = false) (x : Res State) :
    s.run (if !s.cfgC then s.trap .und else x) = finish (s.trap .und) := by
  rw [if_pos (by simp [hc]), State.run_trap]

theorem custom_body {s : State} (hc : s.cfgC = true) (x : Res State) :
    s.run (if !s.cfgC then s.trap .und else x) = s.run x := by
  rw [if_neg (by simp [hc])]

/-- Settles O54: every body starts with the check of its slave. -/
theorem slaveInstructions : Obligations.SlaveInstructions := by
  intro s g
  refine ⟨fun hc hw hr i hi => ?_, fun hc => ⟨custom_body hc _, custom_body hc _, fun hu => ?_, fun hu => ?_⟩,
    fun hm m ins hi => ?_, fun hf f i a b hi lo ins hins => ?_⟩
  · have he : exec i s = finish (s.trap .und) := by
      simp only [List.mem_cons, List.not_mem_nil, or_false] at hi
      obtain rfl | rfl | rfl := hi <;> exact custom_und hc _
    exact exec_trap_ready (k := .und) he hw hr
  · exact (custom_body hc _).trans (ifUser_ill hu _)
  · refine (custom_body hc _).trans ?_
    rw [if_neg (by simp [hu])]
    rfl
  · simp only [List.mem_cons, List.not_mem_nil, or_false] at hi
    obtain rfl | rfl | rfl | rfl := hi <;> exact mmuGuard_und hm _
  · simp only [List.mem_cons, List.not_mem_nil, or_false] at hins
    obtain rfl | rfl | rfl | rfl | rfl | rfl | rfl | rfl | rfl | rfl | rfl | rfl | rfl | rfl | rfl | rfl | rfl | rfl :=
      hins <;> exact fpGuard_und hf _

/-! ## Processor registers (R447 to R451) -/

/-- A load of UPSR replaces the low byte of PSR (R42). -/
theorem loadUpsr_bits (w : Word) (v : Nat) : BitVec.ofNat 16 (w.toNat / 256 * 256 + v % 256) &&& psrMask =
    (w &&& 0xFF00 ||| (BitVec.ofNat 16 v &&& 0x00FF)) &&& 0x0FE7 := by
  refine congrArg (· &&& (0x0FE7 : Word)) (BitVec.eq_of_getLsbD_eq fun j hj => ?_)
  have hhigh : (0xFF00 : Word).getLsbD j = decide (8 ≤ j) := by
    revert hj; revert j; decide
  have hlow : (0x00FF : Word).getLsbD j = decide (j < 8) := by
    clear hhigh; revert hj; revert j; decide
  rw [BitVec.getLsbD_or, BitVec.getLsbD_and, BitVec.getLsbD_and, hhigh, hlow, BitVec.getLsbD_ofNat,
    BitVec.getLsbD_ofNat, Nat.mul_comm, Nat.testBit_two_pow_mul_add (i := 8) _ (Nat.mod_lt _ (by decide)),
    decide_eq_true hj, Bool.true_and, Bool.true_and]
  by_cases h8 : j < 8
  · rw [if_pos h8, decide_eq_true h8, decide_eq_false (by omega), Bool.and_false, Bool.false_or, Bool.and_true]
    exact (Nat.testBit_mod_two_pow v 8 j).trans (by rw [decide_eq_true h8, Bool.true_and])
  · rw [if_neg h8, decide_eq_false h8, decide_eq_true (by omega), Bool.and_false, Bool.or_false, Bool.and_true]
    exact (Nat.testBit_div_two_pow (n := 8) w.toNat (j - 8)).trans (by rw [Nat.sub_add_cancel (by omega)]; rfl)

theorem exec_psrShape {i : IntLen} {ins : Instr} {src : Gen} {f : Word → Word → Word} {s s1 : State} {v : Nat}
    (he : exec ins s = s.run (psrShape i ins src f s)) (hi : i = .b ∨ (i = .w ∧ s.flag .u = false))
    (hv : readOp .int i.bytes s s src = .ok (v, s1)) :
    ∃ t, exec ins s = .next t ∧ t.psr = f s.psr (BitVec.ofNat 16 v) &&& 0x0FE7 ∧ SameData s1 t ∧
      NextSequential ins s t := by
  obtain ⟨-, -, -, -, hpc, -, -, -⟩ := readOp_frame hv
  have hd : i ≠ .d := by rintro rfl; obtain h | ⟨h, -⟩ := hi <;> cases h
  have hu : ¬ (i = .w ∧ s.flag .u = true) := by
    rintro ⟨rfl, hu⟩
    obtain h | ⟨-, h⟩ := hi
    · cases h
    · exact Bool.false_ne_true (h.symm.trans hu)
  refine ⟨({ s1 with psr := f s.psr (BitVec.ofNat 16 v) &&& psrMask } : State).advance ins, ?_, State.advance_psr _ _,
    ?_, advance_next_of (u := { s1 with psr := f s.psr (BitVec.ofNat 16 v) &&& psrMask }) hpc ins⟩
  · rw [he, psrShape, if_neg hd, if_neg hu, hv]
    exact run_ok _ _
  · simp [SameData, SameRegs, SameFpRegs, SameMemory, SameStack, SameControl, SameBases, SameSystem]

/-- Settles O49: the stack pointer by a signed sum, PSR bit by bit. -/
theorem stackPsrAdjust : Obligations.StackPsrAdjust := by
  intro i src s s1 v hv
  obtain ⟨-, -, -, -, hpc, -, -, -⟩ := readOp_frame hv
  refine ⟨⟨(s1.addSp (-signed i.bits v)).advance (.adjspi i src), ?_, ?_, ?_⟩, fun hi =>
    ⟨exec_psrShape (f := fun w v => w &&& ~~~v) rfl hi hv, exec_psrShape (f := fun w v => w ||| v) rfl hi hv⟩⟩
  · change execAdjspi i src s = _
    rw [execAdjspi, hv, ← sext_eq_signed i.bits_pos]
    exact run_ok _ _
  · have h := s1.addSp_moved (-signed i.bits v)
    simpa only [StackMoved, State.advance_sp0, State.advance_sp1] using h
  · refine ⟨?_, ?_, ?_, ?_, ?_, advance_next_of (by rw [State.addSp_pc, hpc]) _⟩ <;>
      simp [SameRegs, SameFpRegs, SameMemory, SameFlags, SameControl, SameBases, SameSystem]

theorem privileged_body {s : State} {p : ProcReg} (h : p = .psr ∨ p = .intbase → s.flag .u = false) :
    ¬ (privilegedReg p && s.flag .u) = true := by
  cases p with
  | psr => simp [h (.inl rfl)]
  | intbase => simp [h (.inr rfl)]
  | _ => exact Bool.false_ne_true

theorem exec_lpri {i : IntLen} {p : ProcReg} {g : Gen} {s s1 : State} {v : Nat}
    (hp : p = .psr ∨ p = .intbase → s.flag .u = false) (hv : readOp .int i.bytes s s g = .ok (v, s1)) :
    exec (.lpri i p g) s = .next ((s1.loadProcReg i p v).advance (.lpri i p g)) := by
  change execLpri i p g s = _
  rw [execLpri, if_neg (privileged_body hp), hv]
  exact run_ok _ _

theorem low24_toNat (v : Nat) : (low24 v).toNat = v % 16777216 := BitVec.toNat_ofNat ..

/-- What loading a dedicated register changes (R450). -/
theorem loadProcReg_changes (s : State) (i : IntLen) (p : ProcReg) (v : Nat) :
    let t := s.loadProcReg i p v
    (t.r = s.r ∧ t.f = s.f ∧ t.mem = s.mem ∧ t.fsr = s.fsr ∧ t.interlock = s.interlock ∧ SameSystem s t ∧
      t.pc = s.pc) ∧
    (if p = .fp then t.fp.toNat = v % 16777216 else t.fp = s.fp) ∧
    (if p = .sb then t.sb.toNat = v % 16777216 else t.sb = s.sb) ∧
    (if p = .intbase then t.intbase.toNat = v % 16777216 else t.intbase = s.intbase) ∧
    (if p = .mod then t.mod.toNat = v % 65536 else t.mod = s.mod) ∧
    (if p = .sp ∧ s.flag .s = true then t.sp1.toNat = v % 16777216 else t.sp1 = s.sp1) ∧
    (if p = .sp ∧ s.flag .s = false then t.sp0.toNat = v % 16777216 else t.sp0 = s.sp0) ∧
    (if p = .upsr ∨ (p = .psr ∧ i = .b) then
        t.psr = (s.psr &&& 0xFF00 ||| (BitVec.ofNat 16 v &&& 0x00FF)) &&& 0x0FE7
      else if p = .psr then t.psr = BitVec.ofNat 16 v &&& 0x0FE7 else t.psr = s.psr) := by
  intro t
  cases p with
  | sp => cases hs : s.flag .s <;> simp [t, State.loadProcReg, State.setSp, hs, SameSystem, low24_toNat]
  | upsr => exact ⟨by simp [t, State.loadProcReg, SameSystem], rfl, rfl, rfl, rfl, rfl, rfl, loadUpsr_bits s.psr v⟩
  | psr =>
    cases i with
    | b => exact ⟨by simp [t, State.loadProcReg, SameSystem], rfl, rfl, rfl, rfl, rfl, rfl, loadUpsr_bits s.psr v⟩
    | w => exact ⟨by simp [t, State.loadProcReg, SameSystem], rfl, rfl, rfl, rfl, rfl, rfl, rfl⟩
    | d => exact ⟨by simp [t, State.loadProcReg, SameSystem], rfl, rfl, rfl, rfl, rfl, rfl, rfl⟩
  | mod => simp [t, State.loadProcReg, SameSystem]
  | fp => simp [t, State.loadProcReg, SameSystem, low24_toNat]
  | sb => simp [t, State.loadProcReg, SameSystem, low24_toNat]
  | intbase => simp [t, State.loadProcReg, SameSystem, low24_toNat]

/-- Settles O50: a load is `loadProcReg`, a store is a delivery of `procReg`. -/
theorem dedicatedRegisters : Obligations.DedicatedRegisters := by
  intro i p g
  refine ⟨fun s s1 v hp hv => ?_, ?_⟩
  · obtain ⟨-, -, -, hpsr, hpc, -, -, -⟩ := readOp_frame hv
    have hflag : s1.flag .s = s.flag .s := by rw [State.flag, hpsr]; rfl
    obtain ⟨⟨hr, hf, hmem, hfsr, hlock, hsys, hpc'⟩, hrest⟩ := loadProcReg_changes s1 i p v
    rw [hflag, hpsr] at hrest
    refine ⟨_, exec_lpri hp hv, ?_, ?_, ?_, ?_, ?_, ?_, advance_next_of (hpc'.trans hpc) _, ?_⟩
    · intro k _
      rw [State.advance_r, hr]
    · intro k _
      rw [State.advance_f, hf]
    · intro a
      rw [State.advance_mem, hmem]
    · rw [State.advance_fsr, hfsr]
    · rw [State.advance_interlock, hlock]
    · simpa only [SameSystem, State.advance_cfg, State.advance_mmu, State.advance_waiting, State.advance_nmiPending,
        State.advance_env] using hsys
    · rw [State.advance_fp, State.advance_sb, State.advance_intbase, State.advance_mod, State.advance_sp1,
        State.advance_sp0, State.advance_psr, hpsr]
      exact hrest
  · refine storeClaim_of i.bytes_le fun {s s2 l} hp hl => ⟨s.procReg p % 2 ^ i.bits, ?_, ?_⟩
    · change execSpri i p g s = _
      rw [execSpri, if_neg (privileged_body hp)]
      exact congrArg s.run (writeOp_next _ _ hl)
    · rw [i.mod_bytes]
      cases p with
      | sp => exact congrArg (· % 2 ^ i.bits) (apply_ite BitVec.toNat (s.flag .s = true) s.sp1 s.sp0)
      | _ => rfl

end Sys2Proof.Machine
end

section
/-! PROOFS. Registers and operands: parts of registers, register pairs, effective addresses and operand classes
(10_state.md section 1, 30_encoding.md sections 2 and 3). -/
namespace Sys2Proof.Machine

/-! ## Parts of registers and pairs (R21, R145) -/

theorem getElem_setRegLow_same (s : State) (k : Fin 8) (n v : Nat) :
    (s.setRegLow k n v).r[k] = mergeLow s.r[k] n v := by
  simp only [State.setRegLow_r, Fin.getElem_fin, Vector.getElem_set_self]

theorem getElem_setRegLow_other (s : State) {j k : Fin 8} (n v : Nat) (h : j ≠ k) : (s.setRegLow k n v).r[j] = s.r[j] := by
  simp only [State.setRegLow_r, Fin.getElem_fin]
  rw [Vector.getElem_set_ne]
  exact fun e => h (Fin.ext e.symm)

theorem getElem_setFReg_same (s : State) (k : Fin 8) (v : Dword) : (s.setFReg k v).f[k] = v := by
  simp only [State.setFReg_f, Fin.getElem_fin, Vector.getElem_set_self]

theorem getElem_setFReg_other (s : State) {j k : Fin 8} (v : Dword) (h : j ≠ k) : (s.setFReg k v).f[j] = s.f[j] := by
  simp only [State.setFReg_f, Fin.getElem_fin]
  rw [Vector.getElem_set_ne]
  exact fun e => h (Fin.ext e.symm)

/-- An even register has a pair (R145 item 3). -/
theorem pairOf_even {k j : Fin 8} (hk : k.val % 2 = 0) (hj : j.val = k.val + 1) :
    pairOf k = .ok (k, j) ∧ j = k + 1 ∧ j ≠ k := by
  have hv : (k + 1).val = k.val + 1 := by
    rw [Fin.val_add]
    have := j.isLt
    exact Nat.mod_eq_of_lt (by omega)
  have hjk : j = k + 1 := Fin.ext (hj.trans hv.symm)
  refine ⟨?_, hjk, fun h => by rw [h] at hj; omega⟩
  rw [pairOf, if_pos hk]
  refine congrArg (fun x => Except.ok (k, x)) (Fin.ext ?_)
  rw [hj]
  have := j.isLt
  exact Nat.mod_eq_of_lt (by omega)

theorem le_four_of_mem {n : Nat} (h : n ∈ [1, 2, 4]) : n ≤ 4 := by
  simp only [List.mem_cons, List.not_mem_nil, or_false] at h
  omega

/-- A single-precision value is written to one register (R251). -/
theorem writeLoc_fpr_single (s : State) (k : Fin 8) (v : Nat) :
    ∃ t, s.writeLoc 4 v (.fpr k) = .ok t ∧ t.f[k].toNat = v % 2 ^ 32 ∧ OnlyAt (.fpr k) 4 s t := by
  refine ⟨s.setFReg k (BitVec.ofNat 32 v), rfl, ?_, fun _ _ => rfl, fun j hj => ?_, fun _ => rfl⟩
  · rw [getElem_setFReg_same, BitVec.toNat_ofNat]
  · rw [if_neg (by decide), List.mem_singleton] at hj
    exact getElem_setFReg_other _ _ hj

/-- A double-precision value is written to a pair, its low half to the even register (R253). -/
theorem writeLoc_fpr_double (s : State) {k j : Fin 8} (v : Nat) (hk : k.val % 2 = 0) (hj : j.val = k.val + 1) :
    ∃ t, s.writeLoc 8 v (.fpr k) = .ok t ∧ t.f[k].toNat = v % 2 ^ 32 ∧ t.f[j].toNat = v / 2 ^ 32 % 2 ^ 32 ∧
      OnlyAt (.fpr k) 8 s t := by
  obtain ⟨hp, rfl, hne⟩ := pairOf_even hk hj
  refine ⟨(s.setFReg k (BitVec.ofNat 32 v)).setFReg (k + 1) (BitVec.ofNat 32 (v / 4294967296)), ?_, ?_, ?_,
    fun _ _ => rfl, fun i hi => ?_, fun _ => rfl⟩
  · simp only [State.writeLoc, if_true, hp, bind, Except.bind]
  · rw [getElem_setFReg_other _ _ hne.symm, getElem_setFReg_same, BitVec.toNat_ofNat]
  · rw [getElem_setFReg_same, BitVec.toNat_ofNat]
    rfl
  · rw [if_pos rfl] at hi
    simp only [List.mem_cons, List.not_mem_nil, or_false, not_or] at hi
    rw [getElem_setFReg_other _ _ hi.2, getElem_setFReg_other _ _ hi.1]

/-- A 2i operand in registers (R145 item 3). -/
theorem pair_registers (s : State) {k j : Fin 8} {n : Nat} (lo hi : Nat) (hn : n ≤ 4) (hk : k.val % 2 = 0)
    (hj : j.val = k.val + 1) :
    s.readPair n (.gpr k) = .ok (s.r[k].toNat % 256 ^ n, s.r[j].toNat % 256 ^ n) ∧
    s.readLow n (.gpr k) = .ok (s.r[k].toNat % 256 ^ n) ∧
    ∃ t, s.writePair n lo hi (.gpr k) = .ok t ∧ t.r[k].toNat % 256 ^ n = lo % 256 ^ n ∧
      t.r[j].toNat % 256 ^ n = hi % 256 ^ n ∧ OnlyAtPair (.gpr k) n s t := by
  obtain ⟨hp, rfl, hne⟩ := pairOf_even hk hj
  have hlow : ((s.setRegLow k n lo).setRegLow (k + 1) n hi).r[k] = mergeLow s.r[k] n lo := by
    rw [getElem_setRegLow_other _ _ _ hne.symm, getElem_setRegLow_same]
  have hhigh : ((s.setRegLow k n lo).setRegLow (k + 1) n hi).r[k + 1] = mergeLow s.r[k + 1] n hi := by
    rw [getElem_setRegLow_same, getElem_setRegLow_other _ _ _ hne]
  refine ⟨by simp only [State.readPair, hp, bind, Except.bind, State.regLow],
    by simp only [State.readLow, hp, bind, Except.bind, State.regLow],
    (s.setRegLow k n lo).setRegLow (k + 1) n hi, by simp only [State.writePair, hp, bind, Except.bind],
    by rw [hlow, mergeLow_mod _ _ hn], by rw [hhigh, mergeLow_mod _ _ hn], fun i hi' => ?_,
    by rw [hlow, mergeLow_div _ _ hn], by rw [hhigh, mergeLow_div _ _ hn], fun _ _ => rfl, fun _ => rfl⟩
  simp only [List.mem_cons, List.not_mem_nil, or_false, not_or] at hi'
  rw [getElem_setRegLow_other _ _ _ hi'.2, getElem_setRegLow_other _ _ _ hi'.1]

/-- A 2i operand in memory has its low half at the lower address (R166). -/
theorem pair_memory {s : State} {n : Nat} {a : Dword} (lo hi : Nat) (hw : s.mem.wf = true) (hx : s.cut = .never)
    (hc : checkAccess a.toNat (2 * n) = .ok ()) :
    s.readPair n (.mem a) = .ok (s.mem.readLE a.toNat n, s.mem.readLE (a.toNat + n) n) ∧
    s.readLow n (.mem a) = .ok (s.mem.readLE a.toNat n) ∧
    ∃ t, s.writePair n lo hi (.mem a) = .ok t ∧ t.mem.readLE a.toNat n = lo % 256 ^ n ∧
      t.mem.readLE (a.toNat + n) n = hi % 256 ^ n ∧ OnlyAtPair (.mem a) n s t := by
  have hb := (checkAccess_ok.1 hc).1
  have hpos : 0 < 256 ^ n := by positivity
  have halves (m : Memory) : m.readLE a.toNat (2 * n) % 256 ^ n = m.readLE a.toNat n ∧
      m.readLE a.toNat (2 * n) / 256 ^ n = m.readLE (a.toNat + n) n := by
    have hlt := Memory.readLE_lt m a.toNat n
    rw [Nat.two_mul, Memory.readLE_add, Nat.add_mul_mod_self_left, Nat.mod_eq_of_lt hlt,
      Nat.add_mul_div_left _ _ hpos, Nat.div_eq_of_lt hlt, Nat.zero_add]
    exact ⟨rfl, rfl⟩
  refine ⟨?_, State.memRead_never hx (checkAccess_part hc le_rfl (by omega)), _, State.memWrite_never _ hx hc, ?_, ?_,
    fun _ _ => rfl, fun _ _ => rfl, fun x hx => Memory.read_writeLE_outside hw hb hx⟩
  · simp only [State.readPair, State.memRead_never hx hc, bind, Except.bind, halves]
  · rw [← (halves _).1, Memory.readLE_writeLE hw hb, Nat.two_mul, Nat.pow_add, Nat.mod_mul_left_mod,
      Nat.add_mul_mod_self_left, Nat.mod_mod]
  · rw [← (halves _).2, Memory.readLE_writeLE hw hb, Nat.two_mul, Nat.pow_add, Nat.mod_mul_right_div_self,
      Nat.add_mul_div_left _ _ hpos, Nat.div_eq_of_lt (Nat.mod_lt _ hpos), Nat.zero_add]

/-- Settles O17: single registers by what each write leaves, pairs by the two lemmas above. -/
theorem subRegister : Obligations.SubRegister := by
  refine ⟨fun s k n v hn => ⟨rfl, s.setRegLow k n v, rfl, ?_, ?_, fun j hj => getElem_setRegLow_other s n v hj⟩,
    fun s k v => ⟨rfl, writeLoc_fpr_single s k v⟩, fun s k j v n lo hi a hk hj =>
    ⟨⟨?_, writeLoc_fpr_double s v hk hj⟩, fun hn => ?_⟩⟩
  · rw [getElem_setRegLow_same, mergeLow_mod _ _ (le_four_of_mem hn)]
  · rw [getElem_setRegLow_same, mergeLow_div _ _ (le_four_of_mem hn)]
  · obtain ⟨hp, -, -⟩ := pairOf_even hk hj
    simp only [State.readLoc, if_true, hp, bind, Except.bind]
    rfl
  · obtain ⟨hpair, hlow, hwrite⟩ := pair_registers s lo hi (le_four_of_mem hn) hk hj
    exact ⟨hpair, hlow, hwrite, fun hw hx hc => pair_memory lo hi hw hx hc⟩

/-! ## Effective addresses (R143 to R153) -/

theorem pointer_add (p : Nat) (e : Disp) : BitVec.ofNat 32 p + Disp32 e = BitVec.ofInt 32 (p + e.value) := by
  rw [Disp32, BitVec.ofInt_add, BitVec.ofInt_natCast]

theorem relative_eq {s : State} {base : Dword} {d e : Disp} {p : Nat}
    (h : s.memRead (base + BitVec.ofInt 32 d.value) 4 = .ok p) :
    s.relative base d e = .ok (BitVec.ofInt 32 (p + e.value)) := by
  rw [State.relative, Disp32, h, ← pointer_add]
  rfl

/-- The Link Table entry of the current module (R93, R150). -/
theorem linkEntry_eq {s : State} {k : Int} {p : Nat} (hm : s.mod.toNat < 0xFFF1)
    (hp : s.memRead (BitVec.ofNat 32 (s.mod.toNat + 4)) 4 = .ok p) :
    s.linkEntry k = s.memRead (BitVec.ofInt 32 (p + 4 * k)) 4 := by
  have ha : s.mod.setWidth 32 + 4#32 = BitVec.ofNat 32 (s.mod.toNat + 4) := by
    rw [BitVec.ofNat_add, BitVec.ofNat_toNat]
  rw [State.linkEntry, moduleAddr_of_lt hm, BitVec.ofInt_add, BitVec.ofInt_natCast]
  change (s.memRead (s.mod.setWidth 32 + 4#32) 4 >>= _) = _
  rw [ha, hp]
  rfl

theorem scaled_eq (a n : Nat) (x : Dword) :
    BitVec.ofNat 32 a + x * BitVec.ofNat 32 n = BitVec.ofNat 32 (a + n * x.toNat) := by
  rw [BitVec.ofNat_add, BitVec.ofNat_mul, BitVec.ofNat_toNat, BitVec.setWidth_eq, BitVec.mul_comm]

/-- Settles O19: by definition but for pointers and the scaled index. -/
theorem effectiveAddresses : Obligations.EffectiveAddresses := by
  intro s0 s k x d e m a p q
  refine ⟨rfl, rfl, rfl, rfl, rfl, rfl, rfl, fun hd => if_neg (by omega), relative_eq, relative_eq, relative_eq,
    fun hm hp hq => ?_, fun ha sc n hn => ?_⟩
  · change (s.linkEntry d.value >>= _) = _
    rw [linkEntry_eq hm hp, hq, ← pointer_add]
    rfl
  · have hsc : sc.factor = n := by
      simp only [List.mem_cons, Prod.mk.injEq, List.not_mem_nil, or_false] at hn
      obtain ⟨rfl, rfl⟩ | ⟨rfl, rfl⟩ | ⟨rfl, rfl⟩ | ⟨rfl, rfl⟩ := hn <;> rfl
    change (modeAddr s0 s m >>= fun a => .ok (a + s.r[x] * BitVec.ofNat 32 sc.factor)) = _
    rw [show modeAddr s0 s m = .ok (BitVec.ofNat 32 a) from ha, ← scaled_eq, ← hsc]
    rfl

/-! ## Operand classes (R144 to R164) -/

/-- What a read operand leaves alone, in the claims' words. -/
theorem readOp_leaves {b : Bank} {n : Nat} {s0 s t : State} {g : Gen} {v : Nat} (h : readOp b n s0 s g = .ok (v, t)) :
    SameRegs [] s t ∧ SameFpRegs [] s t ∧ SameMemory s t ∧ SameFlags [] s t ∧ t.pc = s.pc ∧ SameControl s t := by
  obtain ⟨hr, hf, hm, hpsr, hpc, hcontrol, -, -⟩ := readOp_frame h
  exact ⟨fun k _ => by rw [hr], fun k _ => by rw [hf], fun a => by rw [hm], fun k _ => by rw [State.flag, hpsr]; rfl, hpc,
    hcontrol⟩

theorem locateWrite_leaves {b : Bank} {n : Nat} {s0 s t : State} {g : Gen} {l : Loc}
    (h : locateWrite b n s0 s g = .ok (l, t)) :
    SameRegs [] s t ∧ SameFpRegs [] s t ∧ SameMemory s t ∧ SameFlags [] s t ∧ t.pc = s.pc ∧ SameControl s t := by
  obtain ⟨hr, hf, hm, hpsr, hpc, hcontrol, -, -⟩ := locateWrite_frame h
  exact ⟨fun k _ => by rw [hr], fun k _ => by rw [hf], fun a => by rw [hm], fun k _ => by rw [State.flag, hpsr]; rfl, hpc,
    hcontrol⟩

/-- A read operand in Top of Stack is popped; elsewhere nothing moves (R151, R160). -/
theorem readOp_stack {b : Bank} {n : Nat} {s0 s t : State} {g : Gen} {v : Nat} (h : readOp b n s0 s g = .ok (v, t)) :
    if g = .mode .tos then s.memRead (s.sp.setWidth 32) n = .ok v ∧ StackMoved n s t else t = s := by
  split
  · rename_i hg
    subst hg
    obtain ⟨x, hx, h⟩ := Res.bind_ok h
    cases h
    exact ⟨hx, ({ s with cut := s.cut.popped } : State).addSp_moved n⟩
  · rename_i hg
    exact (readOp_frame h).2.2.2.2.2.2.2 hg

theorem setSp_moved {s : State} {n : Nat} (h : n ≤ s.sp.toNat) :
    StackMoved (-n) s (s.setSp (BitVec.ofNat 24 (s.sp.toNat - n))) := by
  have hlt := s.sp.isLt
  constructor
  · intro _ _
    rw [State.setSp_sp0, State.setSp_sp1]
    cases s.flag .s <;> simp only [Bool.false_eq_true, if_false, if_true, BitVec.toNat_ofNat] <;> omega
  · rw [State.setSp_sp0, State.setSp_sp1]
    cases s.flag .s <;> rfl

/-- A write operand in Top of Stack is pushed; elsewhere nothing moves (R151, R161). -/
theorem locateWrite_stack {b : Bank} {n : Nat} {s0 s t : State} {g : Gen} {l : Loc}
    (h : locateWrite b n s0 s g = .ok (l, t)) :
    if g = .mode .tos then l = .mem (t.sp.setWidth 32) ∧ n ≤ s.sp.toNat ∧ StackMoved (-n) s t else t = s := by
  obtain ⟨rfl, hn, rfl, rfl⟩ | ⟨hg, -, rfl⟩ := locateWrite_ok h
  · rw [if_pos rfl, State.setSp_sp]
    exact ⟨rfl, hn, setSp_moved hn⟩
  · rw [if_neg hg]

theorem readOp_tos {b : Bank} {n v : Nat} {s0 s : State} (h : s.memRead (s.sp.setWidth 32) n = .ok v) :
    readOp b n s0 s (.mode .tos) = .ok (v, ({ s with cut := s.cut.popped } : State).addSp n) := by
  change (s.memRead (s.sp.setWidth 32) n >>= _) = _
  rw [h]
  rfl

theorem locate_of_address {b : Bank} {s0 s : State} {g : Gen} {a : Dword} (hg : ∀ k : Fin 8, g ≠ .mode (.reg k))
    (ha : addrOf s0 s g = .ok a) : locate b s0 s g = .ok (.mem a) := by
  unfold locate
  split
  · exact absurd rfl (hg _)
  · rw [ha]
    rfl

theorem locateWrite_elsewhere {b : Bank} {n : Nat} {s0 s : State} {g : Gen} {l : Loc} (hg : g ≠ .mode .tos)
    (hl : locate b s0 s g = .ok l) : locateWrite b n s0 s g = .ok (l, s) := by
  unfold locateWrite
  split
  · exact absurd rfl hg
  · rw [hl]
    rfl

/-- Settles O20: each clause is one of the lemmas above. -/
theorem stackOperands : Obligations.StackOperands := by
  intro b n s0 s t g v l _
  refine ⟨fun h => ⟨readOp_stack h, readOp_leaves h⟩, fun h => ⟨locateWrite_stack h, locateWrite_leaves h⟩,
    fun h => ⟨_, readOp_tos h⟩, fun h => ⟨_, _, if_neg (by omega)⟩, fun k => ⟨rfl, rfl⟩,
    fun a hg ha => locate_of_address hg ha, fun a => ⟨rfl, rfl⟩, fun x => rfl, fun hg hl =>
    ⟨fun hv => ?_, locateWrite_elsewhere hg hl⟩, fun hl => ?_⟩
  · rw [readOp_mem hg hl, hv]
    rfl
  · rw [writeOp, hl]
    rfl

end Sys2Proof.Machine
end

section
/-! PROOFS. The bit and bit field instructions (44_bit_and_bit_field.md). -/
namespace Sys2Proof.Machine

/-! ## Deliveries that also set the interlock -/

theorem OnlyAt.congr {s t s' t' : State} {l : Loc} {n : Nat} (h : OnlyAt l n s t) (hr : s'.r = s.r)
    (hf : s'.f = s.f) (hm : s'.mem = s.mem) (hr' : t'.r = t.r) (hf' : t'.f = t.f) (hm' : t'.mem = t.mem) :
    OnlyAt l n s' t' := by
  cases l with
  | fpr k => simpa only [OnlyAt, SameRegs, SameFpRegs, SameMemory, hr, hf, hm, hr', hf', hm'] using h
  | gpr k => simpa only [OnlyAt, SameRegs, SameFpRegs, SameMemory, hr, hf, hm, hr', hf', hm'] using h
  | mem a => simpa only [OnlyAt, SameRegs, SameFpRegs, SameOutside, hr, hf, hm, hr', hf', hm'] using h

theorem OnlyAt.refl {l : Loc} {n : Nat} {s t : State} (hr : t.r = s.r) (hf : t.f = s.f) (hm : t.mem = s.mem) :
    OnlyAt l n s t := by
  cases l with
  | gpr k => exact ⟨fun j _ => by rw [hr], by rw [hr], fun j _ => by rw [hf], fun a => by rw [hm]⟩
  | fpr k => exact ⟨fun j _ => by rw [hr], fun j _ => by rw [hf], fun a => by rw [hm]⟩
  | mem a => exact ⟨fun j _ => by rw [hr], fun j _ => by rw [hf], fun a _ => by rw [hm]⟩

/-- What a delivery leaves before control is passed on. -/
theorem State.deliver_completes {s1 : State} {n old : Nat} {l : Loc} (w : Word) (v : Nat)
    (hr : s1.readLoc n l = .ok old) (hf : LocFits n l) (hw : s1.mem.wf = true) (hx : s1.cut = .never) :
    ∃ s2, s1.deliver w n v l = .ok s2 ∧ s2.readLoc n l = .ok (v % 256 ^ n) ∧ s2.psr = w ∧ OnlyAt l n s1 s2 ∧
      s2.pc = s1.pc ∧ SameStack s1 s2 ∧ SameControl s1 s2 ∧ s2.cut = .never := by
  obtain ⟨s2, h2, hv, ho, -, hpc, hs, hc, -, -, hy⟩ := State.writeLoc_ok (v := v) hr hf hw hx
  exact ⟨{ s2 with psr := w }, State.deliver_ok w h2,
    (State.readLoc_congr (s := s2) (t := { s2 with psr := w }) rfl rfl rfl hy hy n l).trans hv, rfl,
    ho.congr rfl rfl rfl rfl rfl rfl, hpc, hs, hc, hy⟩

/-! ## Bits of a value -/

theorem bitOf_eq_testBit (v b : Nat) : bitOf v b = v.testBit b := (Nat.testBit_eq_decide_div_mod_eq).symm

theorem testBit_bitSet (v b k : Nat) : (bitSet v b).testBit k = if k = b then true else v.testBit k := by
  rw [bitSet, Nat.testBit_or, Nat.testBit_two_pow]
  by_cases h : k = b
  · simp [h]
  · simp [h, Ne.symm h]

theorem testBit_bitInvert (v b k : Nat) : (bitInvert v b).testBit k = if k = b then !v.testBit b else v.testBit k := by
  rw [bitInvert, Nat.testBit_xor, Nat.testBit_two_pow]
  by_cases h : k = b
  · simp [h]
  · simp [h, Ne.symm h]

/-- A value with a bit replaced, by its parts above and below the bit. -/
theorem testBit_parts {q r b : Nat} (c : Bool) (hr : r < 2 ^ b) (k : Nat) :
    (2 ^ (b + 1) * q + (2 ^ b * c.toNat + r)).testBit k =
      if k < b then r.testBit k else if k = b then c else q.testBit (k - (b + 1)) := by
  have hlow : 2 ^ b * c.toNat + r < 2 ^ (b + 1) := by
    have := Bool.toNat_le c
    rw [Nat.pow_succ]
    nlinarith
  rw [Nat.testBit_two_pow_mul_add _ hlow, Nat.testBit_two_pow_mul_add _ hr]
  by_cases h1 : k < b
  · rw [if_pos (by omega), if_pos h1, if_pos h1]
  · by_cases h2 : k = b
    · subst h2
      rw [if_pos (by omega), if_neg h1, if_neg h1, if_pos rfl, Nat.sub_self]
      cases c <;> rfl
    · rw [if_neg (by omega), if_neg h1, if_neg h2]

theorem testBit_bitClear (v b k : Nat) : (bitClear v b).testBit k = if k = b then false else v.testBit k := by
  rw [bitClear, bitOf_eq_testBit]
  by_cases hb : v.testBit b = true
  · have hr : v % 2 ^ b < 2 ^ b := Nat.mod_lt _ (Nat.two_pow_pos b)
    have hone : v / 2 ^ b % 2 = 1 := by rwa [Nat.testBit_eq_decide_div_mod_eq, decide_eq_true_iff] at hb
    have hsplit : v = 2 ^ (b + 1) * (v / 2 ^ b / 2) + (2 ^ b * true.toNat + v % 2 ^ b) := by
      conv_lhs => rw [← Nat.div_add_mod v (2 ^ b), ← Nat.div_add_mod (v / 2 ^ b) 2, hone]
      rw [Nat.pow_succ, Bool.toNat_true]
      ring
    have hclear : v - 2 ^ b = 2 ^ (b + 1) * (v / 2 ^ b / 2) + (2 ^ b * false.toNat + v % 2 ^ b) := by
      rw [Bool.toNat_true] at hsplit
      rw [Bool.toNat_false]
      omega
    rw [if_pos hb, hclear, testBit_parts _ hr]
    conv_rhs => rw [hsplit, testBit_parts _ hr]
    by_cases h1 : k < b
    · rw [if_pos h1, if_neg (by omega), if_pos h1]
    · by_cases h2 : k = b
      · rw [if_neg h1, if_pos h2, if_pos h2]
      · rw [if_neg h1, if_neg h2, if_neg h2, if_neg h1, if_neg h2]
  · rw [if_neg hb]
    by_cases h : k = b
    · rw [if_pos h, h]
      exact Bool.eq_false_iff.2 hb
    · rw [if_neg h]

/-- A rewritten bit inside n bytes leaves the value inside them. -/
theorem testBit_rewritten {n b v x k : Nat} {c : Bool} (hb : b < 8 * n) (hv : v < 256 ^ n)
    (hx : ∀ k, x.testBit k = if k = b then c else v.testBit k) :
    (x % 256 ^ n).testBit k = if k = b then c else v.testBit k := by
  have hp : 256 ^ n = 2 ^ (8 * n) := by rw [Nat.pow_mul]
  rw [hp] at hv ⊢
  rw [Nat.testBit_mod_two_pow, hx]
  by_cases hk : k < 8 * n
  · rw [decide_eq_true hk, Bool.true_and]
  · rw [decide_eq_false hk, if_neg (by omega),
      Nat.testBit_lt_two_pow (hv.trans_le (Nat.pow_le_pow_right (by decide) (by omega)))]
    rfl

/-! ## Where a bit is (R330) -/

theorem floor_eighth (o : Int) : ⌊(o : ℚ) / 8⌋ = o.fdiv 8 := by
  have h := floor_div o (y := 8) (by decide)
  exact_mod_cast h

theorem fmod_eighth (o : Int) : o.fmod 8 = o - 8 * ⌊(o : ℚ) / 8⌋ := by
  rw [floor_eighth, Int.fmod_def]

theorem byteAt_eq {ea a : Dword} {k : Int} (ha : (a.toNat : Int) = ea.toNat + k) (hlt : a.toNat < 16777216) :
    byteAt ea k = .ok a := by
  rw [byteAt, if_pos (by constructor <;> omega), ← ha]
  refine congrArg Except.ok (BitVec.eq_of_toNat_eq ?_)
  rw [Int.toNat_natCast, BitVec.toNat_ofNat]
  omega

/-- The bit of a base and an offset is where the model looks for it, inside the bytes it names. -/
theorem locateBit_of_bitIn {l c : Loc} {o : Int} {n b : Nat} (h : BitIn l o c n b) :
    locateBit l o = .ok (c, n, b) ∧ b < 8 * n ∧ n ≤ 4 := by
  have reg {r : Loc} (hl : locateBit r o = if 0 ≤ o ∧ o < 32 then .ok (r, 4, o.toNat) else faultWith .bitOutsideRegister)
      (h : c = r ∧ n = 4 ∧ o < 32 ∧ (b : Int) = o) : locateBit r o = .ok (c, n, b) ∧ b < 8 * n ∧ n ≤ 4 := by
    obtain ⟨rfl, rfl, hlt, rfl⟩ := h
    exact ⟨by rw [hl, if_pos (by omega), Int.toNat_natCast], by omega, le_rfl⟩
  cases l with
  | gpr k => exact reg rfl h
  | fpr k => exact reg rfl h
  | mem ea =>
    obtain ⟨a, rfl, rfl, ha, hlt, hb⟩ := h
    have hmod := Int.fmod_lt_of_pos o (show (0 : Int) < 8 by decide)
    rw [← fmod_eighth] at hb
    rw [floor_eighth] at ha
    refine ⟨?_, by omega, by decide⟩
    rw [locateBit, byteAt_eq ha hlt, ← hb, Int.toNat_natCast]
    rfl

theorem bitIn_fits {s0 s : State} {g : Gen} {l c : Loc} {o : Int} {n b : Nat} (hl : locate .int s0 s g = .ok l)
    (h : BitIn l o c n b) : LocFits n c := by
  obtain ⟨k, -, rfl⟩ | ⟨ea, -, rfl⟩ := locate_bank hl
  · obtain ⟨rfl, rfl, -, -⟩ := h
    exact le_rfl
  · obtain ⟨a, rfl, -⟩ := h
    trivial

theorem inMemory_eq (l : Loc) : isMemory l = inMemory l := by cases l <;> rfl

/-! ## The bit instructions (R331 to R336) -/

/-- A bit instruction that rewrites its bit, and sets the interlock to `lock`. -/
theorem bitClaim_of_shape {i : IntLen} {ins : Instr} {off base : Gen} {f : Nat → Nat → Nat} {new : Bool → Bool}
    {lock : Bool → Loc → Bool}
    (he : ∀ s, exec ins s = s.run (bitShape i off base f s >>= fun p =>
      .ok (({ p.2 with interlock := lock p.2.interlock p.1 } : State).advance ins)))
    (hf : ∀ v b k, (f v b).testBit k = if k = b then new (v.testBit b) else v.testBit k) :
    BitClaim ins i.bytes off base new lock := by
  intro s s1 o b m v l c hw hx ho hl hbit hv
  obtain ⟨-, -, hm, hpsr, hpc, ⟨-, -, hfsr, hlock⟩, hq, -⟩ := readOp_frame ho
  rw [← i.bits_eq] at hbit
  obtain ⟨hloc, hb, -⟩ := locateBit_of_bitIn hbit
  rw [← sext_eq_signed i.bits_pos] at hloc
  have hfits := bitIn_fits hl hbit
  obtain ⟨s2, h2, hread, hpsr2, honly, hpc2, hstack, ⟨hbases, hsystem, hfsr2, hlock2⟩, hcut⟩ :=
    State.deliver_completes (putFlag s1.psr .f (bitOf v b)) (f v b) hv hfits (hm ▸ hw) (hq hx)
  have hshape : bitShape i off base f s = .ok (l, s2) := by
    simp only [bitShape, ho, hl, hloc, hv, h2, bind, Except.bind]
  obtain ⟨u, hu⟩ : ∃ u : State, u = { s2 with interlock := lock s2.interlock l } := ⟨_, rfl⟩
  have hexec : exec ins s = .next (u.advance ins) := by
    rw [he, hshape, hu]
    exact run_ok _ _
  have hr : u.r = s2.r := by rw [hu]
  have hf' : u.f = s2.f := by rw [hu]
  have hmem : u.mem = s2.mem := by rw [hu]
  have hpsr' : u.psr = s2.psr := by rw [hu]
  have hupc : u.pc = s.pc := by rw [hu]; exact hpc2.trans hpc
  have hucut : u.cut = .never := by rw [hu]; exact hcut
  have hustack : SameStack s1 u := by rw [hu]; exact hstack
  have hubases : SameBases s1 u := by rw [hu]; exact hbases
  have husystem : SameSystem s1 u := by rw [hu]; exact hsystem
  refine ⟨u.advance ins, f v b % 256 ^ m, hexec, ?_, ?_, fun k =>
    testBit_rewritten hb (State.readLoc_lt hv hfits) (hf v b), honly.congr rfl rfl rfl (by rw [State.advance_r, hr])
      (by rw [State.advance_f, hf']) (by rw [State.advance_mem, hmem]), fun k hk => ?_, ?_, ?_, ?_, ?_, ?_,
    advance_next_of hupc ins⟩
  · rw [← hread]
    exact State.readLoc_congr (by rw [State.advance_r, hr]) (by rw [State.advance_f, hf'])
      (by rw [State.advance_mem, hmem]) hcut (by rw [State.advance_cut, hucut]) _ _
  · rw [State.advance_flag, State.flag, hpsr', hpsr2, flag_putFlag_same, bitOf_eq_testBit]
  · rw [State.advance_flag, State.flag, hpsr', hpsr2, flag_putFlag_other _ _ (List.ne_of_not_mem_cons hk)]
    rfl
  · simpa only [SameStack, State.advance_sp0, State.advance_sp1] using hustack
  · simpa only [SameBases, State.advance_sb, State.advance_fp, State.advance_intbase, State.advance_mod] using hubases
  · simpa only [SameSystem, State.advance_cfg, State.advance_mmu, State.advance_waiting, State.advance_nmiPending,
      State.advance_env] using husystem
  · rw [State.advance_fsr, hu]
    exact hfsr2.trans hfsr
  · rw [State.advance_interlock, hu]
    exact congrArg (lock · l) (hlock2.trans hlock)

theorem exec_tbiti (i : IntLen) (off base : Gen) (s : State) : exec (.tbiti i off base) s =
    s.run (readOp .int i.bytes s s off >>= fun p => locate .int s p.2 base >>= fun l =>
      locateBit l (sext i.bits p.1) >>= fun q => p.2.readLoc q.2.1 q.1 >>= fun v =>
        .ok ((p.2.setFlag .f (bitOf v q.2.2)).advance (.tbiti i off base))) := rfl

/-- TBITi writes F alone (R331). -/
theorem tbiti_claim (i : IntLen) (off base : Gen) :
    BitClaim (.tbiti i off base) i.bytes off base (fun b => b) (fun k _ => k) := by
  intro s s1 o b m v l c hw hx ho hl hbit hv
  obtain ⟨-, -, -, -, hpc, ⟨-, -, hfsr, hlock⟩, hq, -⟩ := readOp_frame ho
  rw [← i.bits_eq] at hbit
  obtain ⟨hloc, -, -⟩ := locateBit_of_bitIn hbit
  rw [← sext_eq_signed i.bits_pos] at hloc
  obtain ⟨hflag, ⟨⟨-, -, -, hstack, hbases, hsystem, hfsr', hlock'⟩, hflags⟩, -⟩ :=
    setFlag_advance s1 .f (bitOf v b) (.tbiti i off base)
  refine ⟨(s1.setFlag .f (bitOf v b)).advance (.tbiti i off base), v, ?_, ?_, ?_, fun k => ?_,
    OnlyAt.refl (by simp) (by simp) (by simp), hflags, hstack, hbases, hsystem, hfsr'.trans hfsr, hlock'.trans hlock,
    advance_next_of (u := s1.setFlag .f (bitOf v b)) hpc _⟩
  · rw [exec_tbiti]
    simp only [ho, hl, hloc, hv, bind, Except.bind]
    exact run_ok _ _
  · rw [← hv]
    exact State.readLoc_congr (by simp) (by simp) (by simp) (hq hx) (by simp [hq hx]) _ _
  · rw [hflag, bitOf_eq_testBit]
  · split
    · rename_i h
      rw [h]
    · rfl

/-- Settles O31: TBITi writes F alone, the others are one shape with the three functions above. -/
theorem bitOperations : Obligations.BitOperations := by
  intro i off base
  refine ⟨tbiti_claim i off base, ?_, ?_, ?_, ?_, ?_⟩
  · exact bitClaim_of_shape (f := bitSet) (fun _ => rfl) testBit_bitSet
  · exact bitClaim_of_shape (f := bitClear) (fun _ => rfl) testBit_bitClear
  · exact bitClaim_of_shape (f := bitInvert) (fun _ => rfl) testBit_bitInvert
  · refine bitClaim_of_shape (f := bitSet) (fun _ => ?_) testBit_bitSet
    simp only [← inMemory_eq]
    rfl
  · refine bitClaim_of_shape (f := bitClear) (fun _ => ?_) testBit_bitClear
    simp only [← inMemory_eq]
    rfl

/-! ## FFSi (R337) -/

/-- The first 1 bit found is the first 1 bit. -/
theorem findSet_some {v o n k : Nat} (h : findSet v o n = some k) :
    o ≤ k ∧ k < o + n ∧ v.testBit k = true ∧ ∀ j, o ≤ j → j < k → v.testBit j = false := by
  induction n generalizing o with
  | zero => cases h
  | succ n ih =>
    rw [findSet, bitOf_eq_testBit] at h
    split at h
    · rename_i hb
      cases h
      exact ⟨le_rfl, by omega, hb, fun j h1 h2 => absurd h1 (by omega)⟩
    · rename_i hb
      obtain ⟨h1, h2, h3, h4⟩ := ih h
      refine ⟨by omega, by omega, h3, fun j hj hlt => ?_⟩
      by_cases hjo : j = o
      · rw [hjo]
        exact Bool.eq_false_iff.2 hb
      · exact h4 j (by omega) hlt

theorem findSet_none {v o n : Nat} (h : findSet v o n = none) {k : Nat} (h1 : o ≤ k) (h2 : k < o + n) :
    v.testBit k = false := by
  induction n generalizing o with
  | zero => omega
  | succ n ih =>
    rw [findSet, bitOf_eq_testBit] at h
    split at h
    · cases h
    · rename_i hb
      by_cases hk : k = o
      · rw [hk]
        exact Bool.eq_false_iff.2 hb
      · exact ih h (by omega) (by omega)

/-- What FFSi delivers: F, the offset and the free values drawn. -/
theorem exec_ffsi {i : IntLen} {base off : Gen} {s s1 : State} {v o : Nat} {l : Loc}
    (hv : readOp .int i.bytes s s base = .ok (v, s1)) (hl : locate .int s s1 off = .ok l)
    (ho : s1.readLoc 1 l = .ok o) :
    ∃ (c x : Nat) (b : Bool), exec (.ffsi i base off) s =
        s.run (({ s1 with freeCount := c } : State).deliverNext (.ffsi i base off) (putFlag s1.psr .f b) 1 x l) ∧
      (o < i.bits → (∃ k, findSet v o (i.bits - o) = some k ∧ x = k ∧ b = false) ∨
        (findSet v o (i.bits - o) = none ∧ x = 0 ∧ b = true)) := by
  have he : exec (.ffsi i base off) s = execFfsi i base off s := rfl
  by_cases hlt : o < i.bits
  · cases hf : findSet v o (i.bits - o) with
    | some k =>
      refine ⟨s1.freeCount, k, false, ?_, fun _ => .inl ⟨k, rfl, rfl, rfl⟩⟩
      simp only [he, execFfsi, hv, hl, ho, hf, if_pos hlt, bind, Except.bind]
      rfl
    | none =>
      refine ⟨s1.freeCount, 0, true, ?_, fun _ => .inr ⟨rfl, rfl, rfl⟩⟩
      simp only [he, execFfsi, hv, hl, ho, hf, if_pos hlt, bind, Except.bind]
      rfl
  · refine ⟨s1.freeCount + 1, (s1.freshNat 9).1 % 256, decide (256 ≤ (s1.freshNat 9).1), ?_, fun h => absurd h hlt⟩
    simp only [he, execFfsi, hv, hl, ho, if_neg hlt, bind, Except.bind]
    rfl

/-- Settles O32: what FFSi delivers is what `findSet` finds. -/
theorem findFirstSet : Obligations.FindFirstSet := by
  intro i base off s s1 v o l hw hx hv hl ho
  obtain ⟨-, -, hm, -, hpc, -, hq, -⟩ := readOp_frame hv
  obtain ⟨c, x, b, he, hfound⟩ := exec_ffsi hv hl ho
  obtain ⟨t, ht, hread, hpsr, hdel⟩ := exec_deliverNext (flags := [.f]) he ho (locate_fits_int hl (by decide))
    (hm ▸ hw) (hq hx) hpc (fun k hk => flag_putFlag_other _ _ (List.ne_of_not_mem_cons hk))
  have hflag : t.flag .f = b := by rw [State.flag, hpsr, flag_putFlag_same]
  have hbits : i.bits ≤ 32 := by cases i <;> decide
  refine ⟨t, x % 256 ^ 1, ht, hread, fun k hok hk hset hfirst => ?_, fun hlt hnone => ?_, hdel⟩
  · obtain ⟨j, hj, rfl, rfl⟩ | ⟨hnone, -, -⟩ := hfound (by omega)
    · obtain ⟨h1, h2, h3, h4⟩ := findSet_some hj
      have hjk : x = k := by
        obtain h | h | h := Nat.lt_trichotomy x k
        · exact absurd h3 (by rw [hfirst x h1 h]; decide)
        · exact h
        · exact absurd hset (by rw [h4 k hok h]; decide)
      exact ⟨by rw [hjk]; omega, hflag⟩
    · exact absurd hset (by rw [findSet_none hnone hok (by omega)]; decide)
  · obtain ⟨j, hj, -, -⟩ | ⟨-, rfl, rfl⟩ := hfound hlt
    · obtain ⟨h1, h2, h3, -⟩ := findSet_some hj
      exact absurd h3 (by rw [hnone j h1 (by omega)]; decide)
    · exact ⟨rfl, hflag⟩

/-! ## Fields (R340 to R347) -/

/-- The field of a base, an offset and a length is where the model looks for it. -/
theorem locateField_of_fieldIn {l c : Loc} {o : Int} {n k : Nat} (h : FieldIn l o n c k) :
    locateField l o n = .ok (c, k) := by
  obtain ⟨hlen, h⟩ := h
  have reg {r : Loc} (hl : locateField r o n = if 0 ≤ o ∧ o < 32 ∧ o + n ≤ 32 then .ok (r, o.toNat)
      else faultWith .bitOutsideRegister) (h : c = r ∧ o < 32 ∧ (k : Int) = o) : locateField r o n = .ok (c, k) := by
    obtain ⟨rfl, hlt, rfl⟩ := h
    rw [hl, if_pos (by omega), Int.toNat_natCast]
  cases l with
  | gpr j => exact reg rfl h
  | fpr j => exact reg rfl h
  | mem ea =>
    obtain ⟨a, rfl, ha, hlt, hk⟩ := h
    rw [← fmod_eighth] at hk
    rw [floor_eighth] at ha
    rw [locateField, byteAt_eq ha hlt, ← hk, Int.toNat_natCast]
    exact if_pos hlen

theorem fieldIn_fits {s0 s : State} {g : Gen} {l c : Loc} {o : Int} {n k : Nat} (hl : locate .int s0 s g = .ok l)
    (h : FieldIn l o n c k) : LocFits 4 c := by
  obtain ⟨-, h⟩ := h
  obtain ⟨j, -, rfl⟩ | ⟨ea, -, rfl⟩ := locate_bank hl
  · obtain ⟨rfl, -, -⟩ := h
    exact le_rfl
  · obtain ⟨a, rfl, -⟩ := h
    trivial

theorem fieldLength_eq {d : Disp} {n : Nat} (hd : d.value = n) (h1 : 1 ≤ n) (h32 : n ≤ 32) :
    fieldLength d.value = .ok n := by
  rw [hd, fieldLength, if_pos (by omega), Int.toNat_natCast]

theorem exec_exti (i : IntLen) (off : Fin 8) (base dst : Gen) (len : Disp) (s : State) :
    exec (.exti i off base dst len) s = s.run (fieldLength len.value >>= fun n =>
      extractShape i (.exti i off base dst len) base dst s.r[off].toInt n s) := rfl

theorem exec_insi (i : IntLen) (off : Fin 8) (src base : Gen) (len : Disp) (s : State) :
    exec (.insi i off src base len) s = s.run (fieldLength len.value >>= fun n =>
      insertShape i (.insi i off src base len) src base s.r[off].toInt n s) := rfl

theorem testBit_extracted (i : IntLen) (d k n j : Nat) : (d / 2 ^ k % 2 ^ n % 2 ^ i.bits % 256 ^ i.bytes).testBit j =
    (decide (j < n) && decide (j < i.bits) && d.testBit (k + j)) := by
  rw [i.mod_bytes, Nat.testBit_mod_two_pow, Nat.testBit_mod_two_pow, Nat.testBit_div_two_pow, Nat.add_comm j k,
    ← Bool.and_assoc, Bool.and_comm (decide (j < i.bits))]

/-- An extraction, by its offset and its length in each state. -/
theorem extractClaim {i : IntLen} {ins : Instr} {base dst : Gen} {l c : Loc} {k n d : Nat} {o : State → Int}
    {pre : State → Prop}
    (he : ∀ s, pre s → exec ins s = s.run (extractShape i ins base dst (o s) n s))
    (hp : ∀ s, pre s → locate .int s s base = .ok l ∧ FieldIn l (o s) n c k ∧ s.readLoc 4 c = .ok d) :
    StoreClaim ins i.bytes dst pre
      (fun _ r => ∀ j, r.testBit j = (decide (j < n) && decide (j < i.bits) && d.testBit (k + j))) :=
  storeClaim_of i.bytes_le fun {s s2 l'} hs hl' => by
    obtain ⟨hl, hfield, hd⟩ := hp s hs
    refine ⟨d / 2 ^ k % 2 ^ n % 2 ^ i.bits, ?_, testBit_extracted i d k n⟩
    have hread : s.readField l (o s) n = .ok (d / 2 ^ k % 2 ^ n) := by
      simp only [State.readField, locateField_of_fieldIn hfield, hd, bind, Except.bind]
    rw [he s hs, extractShape, hl]
    change s.run (s.readField l (o s) n >>= _) = _
    rw [hread]
    exact congrArg s.run (writeOp_next ins _ hl')

/-- Settles O33: both are the extracting shape. -/
theorem extractField : Obligations.ExtractField := by
  intro i off base dst len o5 l5 l c k n d
  constructor
  · refine extractClaim (o := fun s => s.r[off].toInt) (fun s hs => ?_) fun s hs => hs.2.2
    obtain ⟨hn, h1, -, ⟨h32, -⟩, -⟩ := hs
    rw [exec_exti, fieldLength_eq hn h1 (by omega)]
    rfl
  · refine extractClaim (o := fun _ => o5.toNat) (fun s hs => ?_) fun s hs => hs.2
    rw [hs.1]
    rfl

theorem testBit_insertBits (d k n v j : Nat) :
    (insertBits d k n v).testBit j = if k ≤ j ∧ j < k + n then v.testBit (j - k) else d.testBit j := by
  have hlow : d % 2 ^ k < 2 ^ k := Nat.mod_lt _ (Nat.two_pow_pos k)
  have hmid : 2 ^ k * (v % 2 ^ n) + d % 2 ^ k < 2 ^ (k + n) := by
    have : v % 2 ^ n + 1 ≤ 2 ^ n := Nat.mod_lt _ (Nat.two_pow_pos n)
    calc 2 ^ k * (v % 2 ^ n) + d % 2 ^ k < 2 ^ k * (v % 2 ^ n + 1) := by rw [Nat.mul_add]; omega
      _ ≤ 2 ^ (k + n) := by rw [Nat.pow_add]; exact Nat.mul_le_mul_left _ this
  have hsplit : insertBits d k n v = 2 ^ (k + n) * (d / 2 ^ (k + n)) + (2 ^ k * (v % 2 ^ n) + d % 2 ^ k) := by
    rw [insertBits]
    omega
  rw [hsplit, Nat.testBit_two_pow_mul_add _ hmid, Nat.testBit_two_pow_mul_add _ hlow, Nat.testBit_mod_two_pow,
    Nat.testBit_mod_two_pow, Nat.testBit_div_two_pow]
  by_cases h1 : j < k
  · rw [if_pos (by omega), if_pos h1, if_neg (by omega), decide_eq_true h1, Bool.true_and]
  · by_cases h2 : j < k + n
    · rw [if_pos h2, if_neg h1, if_pos (by omega), decide_eq_true (by omega), Bool.true_and]
    · rw [if_neg h2, if_neg (by omega), Nat.sub_add_cancel (by omega)]

theorem testBit_inserted {d k n v : Nat} (hd : d < 2 ^ 32) (hk : k + n ≤ 32) (j : Nat) :
    (insertBits d k n v % 256 ^ 4).testBit j = if k ≤ j ∧ j < k + n then v.testBit (j - k) else d.testBit j := by
  rw [show 256 ^ 4 = 2 ^ 32 from rfl, Nat.testBit_mod_two_pow, testBit_insertBits]
  by_cases hj : j < 32
  · rw [decide_eq_true hj, Bool.true_and]
  · rw [decide_eq_false hj, if_neg (by omega),
      Nat.testBit_lt_two_pow (hd.trans_le (Nat.pow_le_pow_right (by decide) (by omega)))]
    rfl

/-- Settles O34: both are the inserting shape, which delivers the whole double-word. -/
theorem insertField : Obligations.InsertField := by
  intro i off src base len o5 l5 ins o s s1 k n v d l c hins hw hx hv hl hfield hd
  obtain ⟨-, -, hm, -, hpc, -, hq, -⟩ := readOp_frame hv
  have hfits := fieldIn_fits hl hfield
  have h32 := hfield.1
  have hshape : exec ins s = s.run (insertShape i ins src base o n s) := by
    obtain ⟨rfl, hn, h1, rfl⟩ | ⟨rfl, rfl, rfl⟩ := hins
    · rw [exec_insi, fieldLength_eq hn h1 (by omega)]
      rfl
    · rfl
  have he : exec ins s = s.run (s1.deliverNext ins s1.psr 4 (insertBits d k n v) c) := by
    simp only [hshape, insertShape, hv, hl, State.writeField, locateField_of_fieldIn hfield, hd, bind, Except.bind]
    rfl
  obtain ⟨t, ht, hread, -, hdel⟩ := exec_deliverNext (flags := []) (c := s1.freeCount) he hd hfits (hm ▸ hw) (hq hx) hpc
    (fun _ _ => rfl)
  exact ⟨t, _, ht, hread, testBit_inserted (State.readLoc_lt hd hfits) h32, hdel⟩

end Sys2Proof.Machine
end

section
/-! PROOFS. Stacks with nothing to come: where a push and a pop leave the stack pointer (20_memory.md R88). -/
namespace Sys2Proof.Machine

/-! ## Lowered and raised stack pointers -/

theorem push_lowered {s : State} {n : Nat} (v : Nat) (hx : s.cut = .never) (hn : n ≤ s.sp.toNat)
    (hc : checkAccess (s.sp.toNat - n) n = .ok ()) :
    s.push n v = .ok (s.lowered n (s.mem.writeLE (s.sp.toNat - n) n v) .never) := by
  rw [State.push_never v hx hn hc, State.lowered, ← hx, ← State.setSp_cut s (BitVec.ofNat 24 (s.sp.toNat - n))]

section Lowered
variable (s : State) (k : Nat) (m : Memory) (c : Cut)

@[simp] theorem State.lowered_mem : (s.lowered k m c).mem = m := rfl
@[simp] theorem State.lowered_cut : (s.lowered k m c).cut = c := rfl
@[simp] theorem State.lowered_r : (s.lowered k m c).r = s.r := by simp [State.lowered]
@[simp] theorem State.lowered_f : (s.lowered k m c).f = s.f := by simp [State.lowered]
@[simp] theorem State.lowered_psr : (s.lowered k m c).psr = s.psr := by simp [State.lowered]
@[simp] theorem State.lowered_flag (g : Flag) : (s.lowered k m c).flag g = s.flag g := by
  rw [State.flag, State.lowered_psr]; rfl
@[simp] theorem State.lowered_pc : (s.lowered k m c).pc = s.pc := by simp [State.lowered]
@[simp] theorem State.lowered_sb : (s.lowered k m c).sb = s.sb := by simp [State.lowered]
@[simp] theorem State.lowered_fp : (s.lowered k m c).fp = s.fp := by simp [State.lowered]
@[simp] theorem State.lowered_intbase : (s.lowered k m c).intbase = s.intbase := by simp [State.lowered]
@[simp] theorem State.lowered_mod : (s.lowered k m c).mod = s.mod := by simp [State.lowered]
@[simp] theorem State.lowered_cfg : (s.lowered k m c).cfg = s.cfg := by simp [State.lowered]
@[simp] theorem State.lowered_fsr : (s.lowered k m c).fsr = s.fsr := by simp [State.lowered]
@[simp] theorem State.lowered_mmu : (s.lowered k m c).mmu = s.mmu := by simp [State.lowered]
@[simp] theorem State.lowered_waiting : (s.lowered k m c).waiting = s.waiting := by simp [State.lowered]
@[simp] theorem State.lowered_nmiPending : (s.lowered k m c).nmiPending = s.nmiPending := by simp [State.lowered]
@[simp] theorem State.lowered_interlock : (s.lowered k m c).interlock = s.interlock := by simp [State.lowered]
@[simp] theorem State.lowered_env : (s.lowered k m c).env = s.env := by simp [State.lowered]

theorem State.lowered_moved (h : k ≤ s.sp.toNat) : StackMoved (-k) s (s.lowered k m c) := setSp_moved h

end Lowered

/-- `s` with the selected stack pointer raised by `k` bytes. -/
def State.raised (s : State) (k : Nat) : State := s.setSp (BitVec.ofNat 24 (s.sp.toNat + k))

theorem State.raised_sp {s : State} {k : Nat} (h : s.sp.toNat + k < 16777216) :
    (s.raised k).sp.toNat = s.sp.toNat + k := by
  rw [State.raised, State.setSp_sp, BitVec.toNat_ofNat, Nat.mod_eq_of_lt h]

theorem State.setSp_setSp (s : State) (a b : AddrReg) : (s.setSp a).setSp b = s.setSp b := by
  have hf : (s.setSp a).flag .s = s.flag .s := by rw [State.flag, State.setSp_psr]; rfl
  unfold State.setSp at hf ⊢
  cases hs : s.flag .s <;> simp_all

theorem State.raised_raised {s : State} {j k : Nat} (h : s.sp.toNat + j < 16777216) :
    (s.raised j).raised k = s.raised (j + k) := by
  rw [State.raised, State.raised_sp h, State.raised, State.setSp_setSp, State.raised, Nat.add_assoc]

theorem State.addSp_raised {s : State} {k : Nat} (h : s.sp.toNat + k < 16777216) : s.addSp k = s.raised k := by
  rw [State.addSp, State.sum24, if_pos (by omega), State.raised]
  norm_cast

theorem pop_raised {s : State} {n : Nat} (hx : s.cut = .never) (hc : checkAccess s.sp.toNat n = .ok ())
    (hlt : s.sp.toNat + n < 16777216) : s.pop n = .ok (s.mem.readLE s.sp.toNat n, s.raised n) := by
  have hr := State.memRead_never (a := ext24 s.sp) hx (by rw [ext24_toNat]; exact hc)
  have hcut : ({ s with cut := s.cut.popped } : State) = s := by rw [hx, Cut.popped_never, ← hx]
  rw [State.pop, hr, ext24_toNat, hcut, State.addSp_raised hlt]
  rfl

section Raised
variable (s : State) (k : Nat)

@[simp] theorem State.raised_mem : (s.raised k).mem = s.mem := by simp [State.raised]
@[simp] theorem State.raised_cut : (s.raised k).cut = s.cut := by simp [State.raised]
@[simp] theorem State.raised_r : (s.raised k).r = s.r := by simp [State.raised]
@[simp] theorem State.raised_f : (s.raised k).f = s.f := by simp [State.raised]
@[simp] theorem State.raised_psr : (s.raised k).psr = s.psr := by simp [State.raised]
@[simp] theorem State.raised_flag (g : Flag) : (s.raised k).flag g = s.flag g := by rw [State.flag, State.raised_psr]; rfl
@[simp] theorem State.raised_pc : (s.raised k).pc = s.pc := by simp [State.raised]
@[simp] theorem State.raised_sb : (s.raised k).sb = s.sb := by simp [State.raised]
@[simp] theorem State.raised_fp : (s.raised k).fp = s.fp := by simp [State.raised]
@[simp] theorem State.raised_intbase : (s.raised k).intbase = s.intbase := by simp [State.raised]
@[simp] theorem State.raised_mod : (s.raised k).mod = s.mod := by simp [State.raised]
@[simp] theorem State.raised_cfg : (s.raised k).cfg = s.cfg := by simp [State.raised]
@[simp] theorem State.raised_fsr : (s.raised k).fsr = s.fsr := by simp [State.raised]
@[simp] theorem State.raised_mmu : (s.raised k).mmu = s.mmu := by simp [State.raised]
@[simp] theorem State.raised_waiting : (s.raised k).waiting = s.waiting := by simp [State.raised]
@[simp] theorem State.raised_nmiPending : (s.raised k).nmiPending = s.nmiPending := by simp [State.raised]
@[simp] theorem State.raised_interlock : (s.raised k).interlock = s.interlock := by simp [State.raised]
@[simp] theorem State.raised_env : (s.raised k).env = s.env := by simp [State.raised]

@[simp] theorem State.raised_sp0 :
    (s.raised k).sp0 = if s.flag .s then s.sp0 else BitVec.ofNat 24 (s.sp.toNat + k) := by simp [State.raised]
@[simp] theorem State.raised_sp1 :
    (s.raised k).sp1 = if s.flag .s then BitVec.ofNat 24 (s.sp.toNat + k) else s.sp1 := by simp [State.raised]

end Raised

/-- A stack pointer that is moved from where another state left it. -/
theorem StackMoved.trans {s u t : State} {j k : Int} (h1 : StackMoved j s u) (h2 : StackMoved k u t)
    (hf : u.flag .s = s.flag .s) (h0 : 0 ≤ (s.sp.toNat : Int) + j) (hlt : (s.sp.toNat : Int) + j < 16777216) :
    StackMoved (j + k) s t := by
  obtain ⟨h1, h1'⟩ := h1
  obtain ⟨h2, h2'⟩ := h2
  have hu : (u.sp.toNat : Int) = s.sp.toNat + j := by
    rw [← h1 h0 hlt, State.sp, hf]
  rw [hu, hf] at h2
  rw [hf] at h2'
  refine ⟨fun h3 h4 => by rw [h2 (by omega) (by omega)]; omega, ?_⟩
  cases hs : s.flag .s
  · rw [hs] at h1' h2'
    exact h2'.trans h1'
  · rw [hs] at h1' h2'
    exact h2'.trans h1'

theorem State.raised_moved {s : State} {k : Nat} (h : s.sp.toNat + k < 16777216) : StackMoved k s (s.raised k) := by
  rw [← State.addSp_raised h]
  exact State.addSp_moved s k

theorem StackMoved.congr {s t t' : State} {d : Int} (h : StackMoved d s t) (h0 : t'.sp0 = t.sp0) (h1 : t'.sp1 = t.sp1) :
    StackMoved d s t' := by
  rw [StackMoved, h0, h1]
  exact h

end Sys2Proof.Machine
end

section
/-! PROOFS. Branches, calls and returns (47_processor_control.md sections 1 to 4 and 6). -/
namespace Sys2Proof.Machine

/-! ## Branches (R401 to R407) -/

theorem State.branch_onlyControl (s : State) (k : Int) : OnlyControl [] s (s.branch k) := by
  simp [OnlyControl, SameData, SameRegs, SameFpRegs, SameMemory, SameFlags, SameStack, SameControl, SameBases,
    SameSystem]

theorem branchIf_branches {s : State} {ins : Instr} {k : Cond} {d : Disp} {c : Bool}
    (he : exec ins s = .next (branchIf ins k d s)) (hc : condTrue k s.psr = c) :
    ∃ t, exec ins s = .next t ∧ (if c then Branched d.value s t else NextSequential ins s t) ∧ OnlyControl [] s t := by
  rw [he, branchIf, hc]
  cases c with
  | true =>
    simp only [if_true]
    exact ⟨_, rfl, s.branch_branched _, s.branch_onlyControl _⟩
  | false =>
    simp only [Bool.false_eq_true, if_false]
    exact ⟨_, rfl, s.advance_next ins, s.advance_onlyControl ins⟩

/-- A branch from whatever state still has the PC it started with. -/
theorem branched_of {s u : State} (h : u.pc = s.pc) (k : Int) : Branched k s (u.branch k) := by
  have hb := u.branch_branched k
  rw [Branched, h] at hb
  exact hb

theorem exec_casei {i : IntLen} {g : Gen} {s s1 : State} {v : Nat} (hv : readOp .int i.bytes s s g = .ok (v, s1)) :
    exec (.casei i g) s = .next (s1.branch (signed i.bits v)) := by
  change execCasei i g s = _
  rw [execCasei, hv, ← sext_eq_signed i.bits_pos]
  exact run_ok _ _

/-- ACBi ends in a branch in either case: by its displacement, or to the next instruction (R407). -/
theorem exec_acbi {i : IntLen} {q : BitVec 4} {g : Gen} {d : Disp} {s s2 : State} {v : Nat} {l : Loc}
    (hl : locate .int s s g = .ok l) (hv : s.readLoc i.bytes l = .ok v)
    (h2 : s.deliver s.psr i.bytes (wrapped i.bits (v + q.toInt)) l = .ok s2) :
    exec (.acbi i q g d) s = .next (if wrapped i.bits (v + q.toInt) = 0 then s2.advance (.acbi i q g d)
      else s2.branch d.value) := by
  change execAcbi i q g d s = _
  simp only [execAcbi, hl, hv, trunc_eq_wrapped, bind, Except.bind]
  rw [show s.writeLoc i.bytes (wrapped i.bits (v + q.toInt)) l = .ok s2 from h2]
  exact run_ok _ _

theorem acbi_branches (i : IntLen) (q : BitVec 4) (g : Gen) (d : Disp) (s : State) (v : Nat) (l : Loc)
    (hw : s.mem.wf = true) (hx : s.cut = .never) (hl : locate .int s s g = .ok l) (hv : s.readLoc i.bytes l = .ok v) :
    ∃ t, exec (.acbi i q g d) s = .next t ∧ t.readLoc i.bytes l = .ok (wrapped i.bits (v + q.toInt)) ∧
      (if wrapped i.bits (v + q.toInt) = 0 then NextSequential (.acbi i q g d) s t else Branched d.value s t) ∧
      OnlyAt l i.bytes s t ∧ SameFlags [] s t ∧ SameStack s t ∧ SameControl s t := by
  obtain ⟨s2, h2, hread, hpsr, honly, hpc, hstack, hcontrol, hcut⟩ := State.deliver_completes s.psr
    (wrapped i.bits (v + q.toInt)) hv (locate_fits_int hl i.bytes_le) hw hx
  rw [wrapped_mod_bytes] at hread
  have leaves (k : Int) : (s2.branch k).readLoc i.bytes l = .ok (wrapped i.bits (v + q.toInt)) ∧
      OnlyAt l i.bytes s (s2.branch k) ∧ SameFlags [] s (s2.branch k) ∧ SameStack s (s2.branch k) ∧
      SameControl s (s2.branch k) := by
    refine ⟨?_, honly.congr rfl rfl rfl (by simp) (by simp) (by simp), fun j _ => ?_, ?_, ?_⟩
    · rw [← hread]
      exact State.readLoc_congr (by simp) (by simp) (by simp) hcut (by simp [hcut]) _ _
    · rw [State.branch_flag, State.flag, hpsr]
      rfl
    · simpa [SameStack] using hstack
    · simpa [SameControl, SameBases, SameSystem] using hcontrol
  refine ⟨_, exec_acbi hl hv h2, ?_⟩
  by_cases h0 : wrapped i.bits (v + q.toInt) = 0
  · rw [if_pos h0, if_pos h0]
    obtain ⟨h1, h⟩ := leaves (instrLength (.acbi i q g d))
    exact ⟨h1, advance_next_of hpc _, h⟩
  · rw [if_neg h0, if_neg h0]
    obtain ⟨h1, h⟩ := leaves d.value
    exact ⟨h1, branched_of hpc _, h⟩

/-- Settles O42: every branch is `branch` or `advance`, by R401. -/
theorem branches : Obligations.Branches := by
  refine ⟨fun d s ins c h => ?_, fun i g s s1 v hv => ?_, acbi_branches⟩
  · simp only [List.mem_cons, Prod.mk.injEq, List.not_mem_nil, or_false] at h
    obtain ⟨rfl, rfl⟩ | ⟨rfl, rfl⟩ | ⟨rfl, rfl⟩ | ⟨rfl, rfl⟩ | ⟨rfl, rfl⟩ | ⟨rfl, rfl⟩ | ⟨rfl, rfl⟩ | ⟨rfl, rfl⟩ |
      ⟨rfl, rfl⟩ | ⟨rfl, rfl⟩ | ⟨rfl, rfl⟩ | ⟨rfl, rfl⟩ | ⟨rfl, rfl⟩ | ⟨rfl, rfl⟩ | ⟨rfl, rfl⟩ := h
    · exact branchIf_branches (k := .eq) rfl rfl
    · exact branchIf_branches (k := .ne) rfl rfl
    · exact branchIf_branches (k := .cs) rfl rfl
    · exact branchIf_branches (k := .cc) rfl rfl
    · exact branchIf_branches (k := .hi) rfl rfl
    · exact branchIf_branches (k := .ls) rfl rfl
    · exact branchIf_branches (k := .gt) rfl rfl
    · exact branchIf_branches (k := .le) rfl rfl
    · exact branchIf_branches (k := .fs) rfl rfl
    · exact branchIf_branches (k := .fc) rfl rfl
    · exact branchIf_branches (k := .lo) rfl rfl
    · exact branchIf_branches (k := .hs) rfl rfl
    · exact branchIf_branches (k := .lt) rfl rfl
    · exact branchIf_branches (k := .ge) rfl rfl
    · exact ⟨_, rfl, s.branch_branched _, s.branch_onlyControl _⟩
  · obtain ⟨-, -, -, -, hpc, -, -, -⟩ := readOp_frame hv
    exact ⟨_, exec_casei hv, branched_of hpc _, s1.branch_onlyControl _⟩

/-! ## Local calls (R403, R408 to R410) -/

/-- The push of a return address, with nothing to come (R400). -/
theorem pushReturn_lowered {s : State} {ins : Instr} (hx : s.cut = .never) (hn : 4 ≤ s.sp.toNat)
    (hc : checkAccess (s.sp.toNat - 4) 4 = .ok ()) (hpc : s.pc.toNat + instrLength ins < 16777216) :
    s.pushReturn ins = .ok (s.lowered 4 (s.mem.writeLE (s.sp.toNat - 4) 4 (s.pc.toNat + instrLength ins)) .never) := by
  have hnext : s.nextPc ins = (BitVec.ofNat 24 (s.pc.toNat + instrLength ins), s) := by
    rw [State.nextPc, State.sum24, if_pos (by omega)]
    norm_cast
  rw [State.pushReturn_of_nextPc hnext, BitVec.toNat_ofNat, Nat.mod_eq_of_lt hpc]
  exact push_lowered _ hx hn hc

/-- What a call leaves: the return address on the stack and nothing else but PC changed. -/
theorem call_leaves {s : State} {ra : Nat} (hw : s.mem.wf = true) (hn : 4 ≤ s.sp.toNat) (hra : ra < 16777216)
    {t : State} (k : Int ⊕ Dword)
    (ht : t = k.elim (s.lowered 4 (s.mem.writeLE (s.sp.toNat - 4) 4 ra) .never).branch
      (s.lowered 4 (s.mem.writeLE (s.sp.toNat - 4) 4 ra) .never).goto) :
    t.mem.readLE (s.sp.toNat - 4) 4 = ra ∧ SameOutside (s.sp.toNat - 4) 4 s t ∧ StackMoved (-4) s t ∧
      SameRegs [] s t ∧ SameFpRegs [] s t ∧ SameFlags [] s t ∧ SameControl s t := by
  have hin : s.sp.toNat - 4 + 4 ≤ Config.memSize := by
    have := s.sp.isLt
    simp only [Config.memSize]
    omega
  have hmem : t.mem = s.mem.writeLE (s.sp.toNat - 4) 4 ra := by rw [ht]; cases k <;> simp
  refine ⟨?_, fun x hx => ?_, (s.lowered_moved 4 (s.mem.writeLE (s.sp.toNat - 4) 4 ra) .never hn).congr ?_ ?_, ?_⟩
  · rw [hmem, Memory.readLE_writeLE hw hin]
    omega
  · rw [hmem]
    exact Memory.read_writeLE_outside hw hin hx
  · rw [ht]
    cases k <;> simp
  · rw [ht]
    cases k <;> simp
  · rw [ht]
    cases k <;> simp [SameRegs, SameFpRegs, SameFlags, SameControl, SameBases, SameSystem, State.flag]

theorem goto_pc_toNat (s : State) (a : Dword) : (s.goto a).pc.toNat = a.toNat % 16777216 := by
  rw [State.goto_pc, low24_toNat]

theorem ret_leaves {s : State} {d : Disp} (hx : s.cut = .never) (hc : checkAccess s.sp.toNat 4 = .ok ())
    (hlt : s.sp.toNat + 4 < 16777216) :
    ∃ t, exec (.ret d) s = .next t ∧ t.pc.toNat = s.mem.readLE s.sp.toNat 4 % 16777216 ∧
      StackMoved (4 + d.value) s t ∧ SameRegs [] s t ∧ SameFpRegs [] s t ∧ SameMemory s t ∧ SameFlags [] s t ∧
      SameControl s t := by
  refine ⟨((s.raised 4).addSp d.value).goto (BitVec.ofNat 32 (s.mem.readLE s.sp.toNat 4)), ?_, ?_, ?_, ?_⟩
  · change execRet d s = _
    rw [execRet, pop_raised hx hc hlt]
    exact run_ok _ _
  · rw [goto_pc_toNat, BitVec.toNat_ofNat]
    omega
  · exact ((State.raised_moved hlt).trans ((s.raised 4).addSp_moved d.value) (State.raised_flag _ _ _) (by omega)
      (by omega)).congr (by simp) (by simp)
  · simp [SameRegs, SameFpRegs, SameMemory, SameFlags, SameControl, SameBases, SameSystem, State.flag]

/-- Settles O43: a branch or a jump, after a push or a pop of the return address. -/
theorem localCalls : Obligations.LocalCalls := by
  intro s g d a
  refine ⟨fun ha => ⟨s.goto a, ?_, goto_pc_toNat s a, ?_⟩, fun hw hx hn hc => ⟨fun ha hpc => ?_, fun hpc => ?_⟩,
    fun hx hc hlt => ret_leaves hx hc hlt⟩
  · change execJump g s = _
    rw [execJump, ha]
    exact run_ok _ _
  · simp [OnlyControl, SameData, SameRegs, SameFpRegs, SameMemory, SameFlags, SameStack, SameControl, SameBases,
      SameSystem, State.flag]
  · refine ⟨(s.lowered 4 (s.mem.writeLE (s.sp.toNat - 4) 4 (s.pc.toNat + instrLength (.jsr g))) .never).goto a, ?_,
      goto_pc_toNat _ a, call_leaves hw hn hpc (.inr a) rfl⟩
    have he : exec (.jsr g) s = s.run (addrOf s s g >>= fun a => s.pushReturn (.jsr g) >>= fun t => .ok (t.goto a)) := rfl
    rw [he, ha, pushReturn_lowered hx hn hc hpc]
    exact run_ok _ _
  · refine ⟨(s.lowered 4 (s.mem.writeLE (s.sp.toNat - 4) 4 (s.pc.toNat + instrLength (.bsr d))) .never).branch d.value,
      ?_, branched_of (State.lowered_pc _ _ _ _) _, call_leaves hw hn hpc (.inl d.value) rfl⟩
    have he : exec (.bsr d) s = s.run (s.pushReturn (.bsr d) >>= fun t => .ok (t.branch d.value)) := rfl
    rw [he, pushReturn_lowered hx hn hc hpc]
    exact run_ok _ _

end Sys2Proof.Machine
end

section
/-! PROOFS. External calls and the returns that reload a module (47_processor_control.md sections 4 and 6,
60_exceptions.md section 6). -/
namespace Sys2Proof.Machine

/-! ## External calls (R411, R412) -/

/-- Memory once an external call has pushed two free bytes, MOD and the return address. -/
def callPushed (s : State) (x ra : Nat) : Memory :=
  ((s.mem.writeLE (s.sp.toNat - 2) 2 x).writeLE (s.sp.toNat - 4) 2 s.mod.toNat).writeLE (s.sp.toNat - 8) 4 ra

/-- The frame of an external call is that of an exception whose stack is the selected one. -/
theorem callPushed_reads {s : State} {x ra : Nat} (hw : s.mem.wf = true) (hn : 8 ≤ s.sp.toNat) (hx : x < 2 ^ 16)
    (hra : ra < 2 ^ 32) :
    (callPushed s x ra).readLE (s.sp.toNat - 8) 4 = ra ∧ (callPushed s x ra).readLE (s.sp.toNat - 4) 2 = s.mod.toNat ∧
      ∀ y, y < s.sp.toNat - 8 ∨ s.sp.toNat - 8 + 8 ≤ y → (callPushed s x ra).read y = s.mem.read y := by
  have h := framePushed_reads (s := { s with sp0 := s.sp }) (image := BitVec.ofNat 16 x) (ra := ra) hw hn hra
  have hf : framePushed { s with sp0 := s.sp } (BitVec.ofNat 16 x) ra = callPushed s x ra := by
    rw [framePushed, BitVec.toNat_ofNat, Nat.mod_eq_of_lt hx]
    rfl
  rw [hf] at h
  obtain ⟨-, hmod, hret, hout⟩ := h
  exact ⟨hret, hmod, hout⟩

/-- `s` with its free values drawn up to `c`. -/
def State.drawn (s : State) (c : Nat) : State := { s with freeCount := c }

theorem Res.ok_bind {α β : Type} (a : α) (f : α → Res β) : (Except.ok a >>= f) = f a := rfl

/-- What an external call comes to, with nothing to come. -/
theorem callExternal_never {s : State} {ins : Instr} {p : Nat} (hx : s.cut = .never) (hp : p % 65536 < 0xFFF1)
    (hpc : s.pc.toNat + instrLength ins < 16777216) (hn : 8 ≤ s.sp.toNat)
    (hc : checkAccess (s.sp.toNat - 8) 8 = .ok ()) :
    ∃ x c, x < 2 ^ 16 ∧ callExternal ins p s = .ok (((s.drawn c).lowered 8
      (callPushed s x (s.pc.toNat + instrLength ins)) .never).inProcedure p) := by
  obtain ⟨x, hxv⟩ : ∃ x, x = (s.freshNat 16).1 := ⟨_, rfl⟩
  have hlt : x < 2 ^ 16 := hxv ▸ Nat.mod_lt _ (by decide)
  refine ⟨x, s.freeCount + 1, hlt, ?_⟩
  obtain ⟨s1, hs1⟩ : ∃ s1, s1 = s.drawn (s.freeCount + 1) := ⟨_, rfl⟩
  have hsp1 : s1.sp = s.sp := by rw [hs1]; rfl
  have hcut1 : s1.cut = .never := by rw [hs1]; exact hx
  have h2 := push_lowered (s := s1) (n := 2) x hcut1 (by rw [hsp1]; omega)
    (checkAccess_part hc (by rw [hsp1]; omega) (by rw [hsp1]; omega))
  have hsp2 := State.lowered_sp s1 2 (s1.mem.writeLE (s1.sp.toNat - 2) 2 x) .never
  have h3 := push_lowered (s := s1.lowered 2 (s1.mem.writeLE (s1.sp.toNat - 2) 2 x) .never) (n := 2) s.mod.toNat rfl
    (by rw [hsp2, hsp1]; omega) (checkAccess_part hc (by rw [hsp2, hsp1]; omega) (by rw [hsp2, hsp1]; omega))
  rw [State.lowered_lowered, hsp2] at h3
  have hsp3 := State.lowered_sp s1 (2 + 2) ((s1.mem.writeLE (s1.sp.toNat - 2) 2 x).writeLE (s1.sp.toNat - 2 - 2) 2
    s.mod.toNat) .never
  have h4 := pushReturn_lowered (s := s1.lowered (2 + 2) ((s1.mem.writeLE (s1.sp.toNat - 2) 2 x).writeLE
    (s1.sp.toNat - 2 - 2) 2 s.mod.toNat) .never) (ins := ins) rfl (by rw [hsp3, hsp1]; omega)
    (checkAccess_part hc (by rw [hsp3, hsp1]; omega) (by rw [hsp3, hsp1]; omega))
    (by rw [State.lowered_pc, hs1]; exact hpc)
  rw [State.lowered_lowered, hsp3, State.lowered_pc, State.lowered_mem] at h4
  have hpc1 : s1.pc = s.pc := by rw [hs1]; rfl
  have hmem1 : s1.mem = s.mem := by rw [hs1]; rfl
  have hcall : callExternal ins p s = (s1.push 2 x >>= fun s2 => s2.push 2 s.mod.toNat >>= fun s3 =>
      s3.pushReturn ins >>= fun s4 => s4.enterProcedure p) := by
    rw [hs1, hxv]
    rfl
  rw [State.lowered_mem] at h3
  rw [hcall, h2, Res.ok_bind, h3, Res.ok_bind, h4, Res.ok_bind, State.enterProcedure_never rfl hp, hpc1, hmem1, hsp1,
    Nat.sub_sub, Nat.sub_sub, ← hs1]
  rfl

/-- CXP and CXPD are calls by a descriptor (R411, R412). -/
theorem exec_external {s : State} {g : Gen} {disp : Disp} {ins : Instr} {a : Dword} {b p : Nat}
    (h : (ins = .cxp disp ∧ s.mod.toNat < 0xFFF1 ∧ s.memRead (BitVec.ofNat 32 (s.mod.toNat + 4)) 4 = .ok b ∧
        s.memRead (BitVec.ofInt 32 (b + 4 * disp.value)) 4 = .ok p) ∨
      (ins = .cxpd g ∧ addrOf s s g = .ok a ∧ s.memRead a 4 = .ok p)) :
    exec ins s = s.run (callExternal ins p s) := by
  obtain ⟨rfl, hm, hb, hp⟩ | ⟨rfl, ha, hp⟩ := h
  · have he : exec (.cxp disp) s = s.run (s.linkEntry disp.value >>= fun p => callExternal (.cxp disp) p s) := rfl
    rw [he, linkEntry_eq hm hb, hp]
    rfl
  · have he : exec (.cxpd g) s = s.run (addrOf s s g >>= fun a => s.memRead a 4 >>= fun p =>
      callExternal (.cxpd g) p s) := rfl
    rw [he, ha]
    change s.run (s.memRead a 4 >>= _) = _
    rw [hp]
    rfl

/-- Settles O44: two pushes, then the module of the descriptor entered. -/
theorem externalCalls : Obligations.ExternalCalls := by
  intro s g disp ins a b p hins hw hx hp hpc hn hc
  obtain ⟨x, c, hlt, hcall⟩ := callExternal_never (ins := ins) hx hp hpc hn hc
  obtain ⟨hret, hmod, hout⟩ := callPushed_reads (x := x) (ra := s.pc.toNat + instrLength ins) hw hn hlt (by omega)
  have hmoved := (s.drawn c).lowered_moved 8 (callPushed s x (s.pc.toNat + instrLength ins)) .never hn
  obtain ⟨u, hu⟩ : ∃ u, u = (s.drawn c).lowered 8 (callPushed s x (s.pc.toNat + instrLength ins)) .never := ⟨_, rfl⟩
  rw [← hu] at hcall hmoved
  have hmem : u.mem = callPushed s x (s.pc.toNat + instrLength ins) := by rw [hu]; rfl
  rw [← hmem] at hret hmod hout
  refine ⟨u.inProcedure p, ?_, BitVec.toNat_ofNat .., BitVec.toNat_ofNat .., BitVec.toNat_ofNat .., hret, hmod, hout,
    hmoved, ?_⟩
  · rw [exec_external hins, hcall]
    exact run_ok _ _
  · rw [hu]
    simp [State.inProcedure, SameRegs, SameFpRegs, SameFlags, SameSystem, State.flag, State.drawn]

/-! ## Returns (R413, R426, R427) -/

/-- `s` once a frame of PC, MOD and a third word is popped and the module reloaded. -/
def State.returned (s : State) (psr : Word) : State :=
  { s.raised 8 with
    pc := low24 (s.mem.readLE s.sp.toNat 4)
    psr := psr
    mod := BitVec.ofNat 16 (s.mem.readLE (s.sp.toNat + 4) 2)
    sb := low24 (s.mem.readLE (s.mem.readLE (s.sp.toNat + 4) 2) 4) }

section Pops
variable {s : State} (hx : s.cut = .never) (hlt : s.sp.toNat + 8 < 16777216) (hc : checkAccess s.sp.toNat 8 = .ok ())
include hx hlt hc

/-- The pops of PC and MOD (R413, R426). -/
theorem pop_return : s.pop 4 = .ok (s.mem.readLE s.sp.toNat 4, s.raised 4) ∧
    (s.raised 4).pop 2 = .ok (s.mem.readLE (s.sp.toNat + 4) 2, s.raised 6) := by
  have hsp4 : (s.raised 4).sp.toNat = s.sp.toNat + 4 := State.raised_sp (by omega)
  refine ⟨pop_raised hx (checkAccess_part hc le_rfl (by omega)) (by omega), ?_⟩
  rw [pop_raised (by simpa using hx) (by rw [hsp4]; exact checkAccess_part hc (by omega) (by omega))
    (by rw [hsp4]; omega), hsp4, State.raised_mem, State.raised_raised (by omega)]

/-- The three pops and the reload of RETT and RETI (R426, R427). -/
theorem popFrame_never (hm : s.mem.readLE (s.sp.toNat + 4) 2 < 0xFFF1) :
    s.popFrame = .ok (s.returned (BitVec.ofNat 16 (s.mem.readLE (s.sp.toNat + 6) 2) &&& 0x0FE7)) := by
  obtain ⟨h1, h2⟩ := pop_return hx hlt hc
  have hsp6 : (s.raised 6).sp.toNat = s.sp.toNat + 6 := State.raised_sp (by omega)
  have h3 : (s.raised 6).pop 2 = .ok (s.mem.readLE (s.sp.toNat + 6) 2, s.raised 8) := by
    rw [pop_raised (by simpa using hx) (by rw [hsp6]; exact checkAccess_part hc (by omega) (by omega))
      (by rw [hsp6]; omega), hsp6, State.raised_mem, State.raised_raised (by omega)]
  have hmod : (BitVec.ofNat 16 (s.mem.readLE (s.sp.toNat + 4) 2)).toNat = s.mem.readLE (s.sp.toNat + 4) 2 := by
    rw [BitVec.toNat_ofNat]
    omega
  rw [State.popFrame, h1]
  change ((s.raised 4).pop 2 >>= _) = _
  rw [h2]
  change ((s.raised 6).pop 2 >>= _) = _
  rw [h3]
  refine (State.loadModule_never ?_ (by rw [hmod]; exact hm)).trans ?_
  · simpa using hx
  · rw [hmod, State.returned]
    simp only [State.loadPsr, State.raised_mem, psrMask]

end Pops

/-- The selected stack pointer of a return, moved on by its constant (R413, R426). -/
theorem returned_moved {s : State} {w : Word} (hlt : s.sp.toNat + 8 < 16777216) (d : Int)
    (hf : flag w .s = s.flag .s) : StackMoved (8 + d) s ((s.returned w).addSp d) := by
  have h8 : StackMoved (8 : Nat) s (s.returned w) := State.raised_moved hlt
  exact h8.trans ((s.returned w).addSp_moved d) hf (by omega) (by omega)

/-- What RETI and RETT restore and what they leave alone. -/
theorem returned_leaves {s t : State} {w : Word} (h : t = s.returned w ∨ ∃ d, t = (s.returned w).addSp d) :
    t.pc.toNat = s.mem.readLE s.sp.toNat 4 % 16777216 ∧ t.mod.toNat = s.mem.readLE (s.sp.toNat + 4) 2 % 65536 ∧
    t.sb.toNat = s.mem.readLE (s.mem.readLE (s.sp.toNat + 4) 2) 4 % 16777216 ∧ t.psr = w ∧ SameRegs [] s t ∧
    SameFpRegs [] s t ∧ SameMemory s t ∧ t.fp = s.fp ∧ t.intbase = s.intbase ∧ t.fsr = s.fsr ∧
    t.interlock = s.interlock ∧ SameSystem s t := by
  have hpc : t.pc = (s.returned w).pc := by obtain rfl | ⟨d, rfl⟩ := h <;> simp
  have hmod : t.mod = (s.returned w).mod := by obtain rfl | ⟨d, rfl⟩ := h <;> simp
  have hsb : t.sb = (s.returned w).sb := by obtain rfl | ⟨d, rfl⟩ := h <;> simp
  have hpsr : t.psr = (s.returned w).psr := by obtain rfl | ⟨d, rfl⟩ := h <;> simp
  rw [hpc, hmod, hsb, hpsr]
  refine ⟨low24_toNat _, BitVec.toNat_ofNat .., low24_toNat _, rfl, ?_⟩
  obtain rfl | ⟨d, rfl⟩ := h <;> simp [State.returned, SameRegs, SameFpRegs, SameMemory, SameSystem]

/-- Where RETT's new PSR selects the other stack pointer (R426). -/
theorem returned_other {s : State} {w : Word} (hlt : s.sp.toNat + 8 < 16777216) (d : Int)
    (hf : flag w .s ≠ s.flag .s) :
    (if s.flag .s then ((s.returned w).addSp d).sp1 else ((s.returned w).addSp d).sp0).toNat = s.sp.toNat + 8 ∧
    (0 ≤ ((if s.flag .s then s.sp0 else s.sp1).toNat : Int) + d →
      ((if s.flag .s then s.sp0 else s.sp1).toNat : Int) + d < 16777216 →
      (((s.returned w).addSp d).sp.toNat : Int) = (if s.flag .s then s.sp0 else s.sp1).toNat + d) := by
  have hsf : (s.returned w).flag .s = flag w .s := rfl
  obtain ⟨hmoved, hother⟩ := (s.returned w).addSp_moved d
  have hsp : ((s.returned w).addSp d).sp = if flag w .s then ((s.returned w).addSp d).sp1
      else ((s.returned w).addSp d).sp0 := by rw [State.sp, State.addSp_flag, hsf]
  have h0 : (s.returned w).sp0 = (s.raised 8).sp0 := rfl
  have h1 : (s.returned w).sp1 = (s.raised 8).sp1 := rfl
  have h8 : (BitVec.ofNat 24 (s.sp.toNat + 8)).toNat = s.sp.toNat + 8 := by
    rw [BitVec.toNat_ofNat]
    exact Nat.mod_eq_of_lt hlt
  rw [State.sp, hsf] at hmoved
  rw [hsf] at hother
  rw [hsp]
  cases hs : s.flag .s <;> cases hw : flag w .s <;>
    simp_all only [ne_eq, not_true_eq_false, Bool.false_eq_true, if_true, if_false, State.raised_sp0, State.raised_sp1,
      not_false_eq_true, true_and, reduceCtorEq]
  · exact fun _ _ => trivial
  · exact fun _ _ => trivial

/-- RXP reloads PC, MOD and SB and removes its parameters (R413). -/
theorem exec_rxp {s : State} (d : Disp) (hx : s.cut = .never) (hlt : s.sp.toNat + 8 < 16777216)
    (hc : checkAccess s.sp.toNat 8 = .ok ()) (hm : s.mem.readLE (s.sp.toNat + 4) 2 < 0xFFF1) :
    ∃ t, exec (.rxp d) s = .next t ∧ t.pc.toNat = s.mem.readLE s.sp.toNat 4 % 16777216 ∧
      t.mod.toNat = s.mem.readLE (s.sp.toNat + 4) 2 ∧
      t.sb.toNat = s.mem.readLE (s.mem.readLE (s.sp.toNat + 4) 2) 4 % 16777216 ∧ StackMoved (8 + d.value) s t ∧
      SameRegs [] s t ∧ SameFpRegs [] s t ∧ SameMemory s t ∧ SameFlags [] s t ∧ t.fp = s.fp ∧ t.intbase = s.intbase ∧
      t.fsr = s.fsr ∧ t.interlock = s.interlock ∧ SameSystem s t := by
  obtain ⟨h1, h2⟩ := pop_return hx hlt hc
  have hmod : (BitVec.ofNat 16 (s.mem.readLE (s.sp.toNat + 4) 2)).toNat = s.mem.readLE (s.sp.toNat + 4) 2 := by
    rw [BitVec.toNat_ofNat]
    omega
  have hsp6 : (s.raised 6).sp.toNat = s.sp.toNat + 6 := State.raised_sp (by omega)
  have h3 : (s.raised 6).addSp 2 = s.raised 8 := by
    have h := State.addSp_raised (s := s.raised 6) (k := 2) (by omega)
    rw [State.raised_raised (by omega)] at h
    exact h
  have h4 := State.loadModule_never (s := s.raised 8) (m := BitVec.ofNat 16 (s.mem.readLE (s.sp.toNat + 4) 2))
    (by simpa using hx) (by rw [hmod]; exact hm)
  obtain ⟨u, hload⟩ : ∃ u, (s.raised 8).loadModule (BitVec.ofNat 16 (s.mem.readLE (s.sp.toNat + 4) 2)) = .ok u := ⟨_, h4⟩
  obtain ⟨-, -, hu⟩ := State.loadModule_ok hload
  rw [hmod, State.raised_mem] at hu
  have huflag : u.flag .s = s.flag .s := by rw [hu]; exact State.raised_flag s 8 .s
  have humoved : StackMoved (8 : Nat) s u := by rw [hu]; exact State.raised_moved hlt
  refine ⟨(u.addSp d.value).goto (BitVec.ofNat 32 (s.mem.readLE s.sp.toNat 4)), ?_, ?_, ?_, ?_,
    (humoved.trans (u.addSp_moved d.value) huflag (by omega) (by omega)).congr (by simp) (by simp), ?_⟩
  · change execRxp d s = _
    rw [execRxp, h1]
    change s.run ((s.raised 4).pop 2 >>= _) = _
    rw [h2]
    change s.run (((s.raised 6).addSp 2).loadModule _ >>= _) = _
    rw [h3, hload]
    exact run_ok _ _
  · rw [goto_pc_toNat, BitVec.toNat_ofNat]
    omega
  · rw [State.goto_mod, State.addSp_mod, hu]
    exact hmod
  · rw [State.goto_sb, State.addSp_sb, hu]
    exact low24_toNat _
  · rw [hu]
    simp [SameRegs, SameFpRegs, SameMemory, SameFlags, SameSystem, State.flag]

/-- The End of Interrupt reads complete and change nothing (R531). -/
theorem endOfInterrupt_never {s : State} (hx : s.cut = .never)
    (h : s.input.eoiByte.toNat < 128 ∨ ∃ a, s.cascadeAddress s.input.eoiByte = .ok a) : s.endOfInterrupt = .ok s := by
  have hread (a : Nat) (b : Byte) : s.deviceRead a b = .ok b := by
    rw [State.deviceRead, State.abortsRead_none hx]
    rfl
  rw [State.endOfInterrupt, hread]
  change (if 0 ≤ s.input.eoiByte.toInt then _ else _) = _
  split
  · rfl
  · rename_i hneg
    obtain hlt | ⟨a, ha⟩ := h
    · exact absurd (byte_toInt_nonneg.2 hlt) hneg
    · rw [ha]
      change (s.deviceRead a.toNat 0 >>= _) = _
      rw [hread]
      rfl

/-- Settles O45: the pops in turn, SB reloaded, then the stack pointer moved. -/
theorem returns : Obligations.Returns := by
  intro s d m w hx hlt hc hm hm' hw
  subst hm hw
  have hmod : s.mem.readLE (s.sp.toNat + 4) 2 % 65536 = s.mem.readLE (s.sp.toNat + 4) 2 := Nat.mod_eq_of_lt (by omega)
  have hpop := popFrame_never hx hlt hc hm'
  obtain ⟨psr, hpsr⟩ : ∃ psr, psr = BitVec.ofNat 16 (s.mem.readLE (s.sp.toNat + 6) 2) &&& (0x0FE7 : Word) := ⟨_, rfl⟩
  rw [← hpsr] at hpop ⊢
  refine ⟨exec_rxp d hx hlt hc hm', fun hu => ?_, fun hu heoi => ?_⟩
  · obtain ⟨hpc, hmd, hsb, hp, hrest⟩ := returned_leaves (s := s) (w := psr) (.inr ⟨d.value, rfl⟩)
    rw [hmod] at hmd
    have hflag : ((s.returned psr).addSp d.value).flag .s = flag psr .s := by rw [State.flag, hp]
    refine ⟨(s.returned psr).addSp d.value, ?_, hpc, hmd, hsb, hp, fun h => ?_, fun h => ?_, hrest⟩
    · have he : exec (.rett d) s = s.run (s.popFrame >>= fun t => .ok (t.addSp d.value)) :=
        congrArg s.run (if_neg (by simp [hu]))
      rw [he, hpop]
      exact run_ok _ _
    · exact returned_moved hlt d.value (hflag.symm.trans h)
    · exact returned_other hlt d.value fun h' => h (hflag.trans h')
  · obtain ⟨hpc, hmd, hsb, hp, hrest⟩ := returned_leaves (s := s) (w := psr) (.inl rfl)
    rw [hmod] at hmd
    refine ⟨s.returned psr, ?_, hpc, hmd, hsb, hp, State.raised_moved (k := 8) hlt, hrest⟩
    have he : exec .reti s = s.run (s.endOfInterrupt >>= fun t => t.popFrame) := congrArg s.run (if_neg (by simp [hu]))
    rw [he, endOfInterrupt_never hx heoi, Res.ok_bind, hpop]
    exact run_ok _ _

end Sys2Proof.Machine
end

section
/-! PROOFS. Contexts: SAVE, RESTORE, ENTER and EXIT (48_processor_service.md section 2). -/
namespace Sys2Proof.Machine

/-! ## Pushing the listed registers (R443) -/

/-- What memory holds once the listed registers are pushed below `a` (R443). -/
theorem savedMem {l : Byte} {s : State} {m : Memory} {a : Nat} (hw : m.wf = true) (hn : 4 * listedBelow l 8 ≤ a)
    (ha : a ≤ Config.memSize) :
    (∀ k : Fin 8, l.getLsbD k.val = true →
      (stackedMem m a (savedValues l s)).readLE (a - 4 * listedBelow l (k.val + 1)) 4 = s.r[k].toNat) ∧
    ∀ x, x < a - 4 * listedBelow l 8 ∨ a ≤ x → (stackedMem m a (savedValues l s)).read x = m.read x := by
  have hlen := savedValues_length l s
  refine ⟨fun k hk => ?_, fun x hx => stackedMem_outside hw (by omega) ha (by omega)⟩
  rw [← (listedBelow_lt l k hk).1]
  exact stackedMem_value hw (by omega) ha (savedValues_getElem? l s k hk) s.r[k].isLt

theorem sp_in_memory (s : State) : s.sp.toNat ≤ Config.memSize := by
  have := s.sp.isLt
  simp only [Config.memSize]
  omega

theorem save_completes {l : Byte} {s : State} (hw : s.mem.wf = true) (hx : s.cut = .never)
    (hn : 4 * listedBelow l 8 ≤ s.sp.toNat)
    (hc : checkAccess (s.sp.toNat - 4 * listedBelow l 8) (4 * listedBelow l 8) = .ok ()) :
    ∃ t, exec (.save l) s = .next t ∧ StackMoved (-(4 * listedBelow l 8)) s t ∧
      (∀ k : Fin 8, l.getLsbD k.val = true →
        t.mem.readLE (s.sp.toNat - 4 * listedBelow l (k.val + 1)) 4 = s.r[k].toNat) ∧
      SameOutside (s.sp.toNat - 4 * listedBelow l 8) (4 * listedBelow l 8) s t ∧ SameRegs [] s t ∧
      SameFpRegs [] s t ∧ SameFlags [] s t ∧ SameControl s t ∧ NextSequential (.save l) s t := by
  obtain ⟨hvalues, hout⟩ := savedMem (s := s) hw hn (sp_in_memory s)
  rw [← savedValues_length l s] at hn hc
  have hpush := pushAll_never hx hn hc
  rw [savedValues_length] at hpush hn
  have hmoved := s.lowered_moved (4 * listedBelow l 8) (stackedMem s.mem s.sp.toNat (savedValues l s)) .never hn
  obtain ⟨u, hu⟩ : ∃ u, u = s.lowered (4 * listedBelow l 8) (stackedMem s.mem s.sp.toNat (savedValues l s)) .never :=
    ⟨_, rfl⟩
  rw [← hu] at hpush hmoved
  have hmem : u.mem = stackedMem s.mem s.sp.toNat (savedValues l s) := by rw [hu]; rfl
  have hpc : u.pc = s.pc := by rw [hu, State.lowered_pc]
  refine ⟨u.advance (.save l), ?_, ?_, ?_, fun x hx' => ?_, ?_⟩
  · rw [exec_save, hpush]
    exact run_ok _ _
  · have h := hmoved.congr (t' := u.advance (.save l)) (by simp) (by simp)
    push_cast at h
    exact h
  · rw [State.advance_mem, hmem]
    exact hvalues
  · rw [State.advance_mem, hmem]
    exact hout x (by omega)
  · refine ⟨?_, ?_, ?_, ?_, advance_next_of hpc _⟩ <;>
      simp [hu, SameRegs, SameFpRegs, SameFlags, SameControl, SameBases, SameSystem]

/-! ## Popping them (R444) -/

/-- The registers once a list of bits is popped from memory at `a`, bit n into R(7-n). -/
def restored (l : Byte) (m : Memory) : List (Fin 8) → Nat → Vector Dword 8 → Vector Dword 8
  | [], _, r => r
  | n :: ns, a, r =>
    if l.getLsbD n.val then restored l m ns (a + 4) (r.set (Fin.ofNat 8 (7 - n.val)) (BitVec.ofNat 32 (m.readLE a 4)))
    else restored l m ns a r

theorem restored_cons_listed {l : Byte} {n : Fin 8} (hn : l.getLsbD n.val = true) (m : Memory) (ns : List (Fin 8))
    (a : Nat) (r : Vector Dword 8) : restored l m (n :: ns) a r =
      restored l m ns (a + 4) (r.set (Fin.ofNat 8 (7 - n.val)) (BitVec.ofNat 32 (m.readLE a 4))) := if_pos hn

theorem restored_cons_other {l : Byte} {n : Fin 8} (hn : l.getLsbD n.val = false) (m : Memory) (ns : List (Fin 8))
    (a : Nat) (r : Vector Dword 8) : restored l m (n :: ns) a r = restored l m ns a r := if_neg (by rw [hn]; decide)

theorem listedRegs_cons (l : Byte) (n : Fin 8) (ns : List (Fin 8)) :
    (listedRegs l (n :: ns)).length = (if l.getLsbD n.val then 1 else 0) + (listedRegs l ns).length := by
  unfold listedRegs
  cases hn : l.getLsbD n.val with
  | false =>
    rw [List.filter_cons_of_neg (p := fun n : Fin 8 => l.getLsbD n.val) (by rw [hn]; decide)]
    simp
  | true =>
    rw [List.filter_cons_of_pos (p := fun n : Fin 8 => l.getLsbD n.val) hn, List.length_cons, Nat.add_comm]
    rfl

theorem State.raised_setReg (s : State) (k : Nat) (n : Fin 8) (v : Dword) (r : Vector Dword 8) :
    ({ (s.setReg n v).raised k with r := r } : State) = { s.raised k with r := r } := by
  unfold State.raised State.setSp
  have hf : (s.setReg n v).flag .s = s.flag .s := rfl
  have hsp : (s.setReg n v).sp = s.sp := rfl
  rw [hf, hsp]
  split <;> rfl

/-- RESTORE's pops with nothing to come. -/
theorem restoreRegs_never {l : Byte} {ns : List (Fin 8)} {s : State} (hx : s.cut = .never)
    (hlt : s.sp.toNat + 4 * (listedRegs l ns).length < 16777216)
    (hc : checkAccess s.sp.toNat (4 * (listedRegs l ns).length) = .ok ()) :
    restoreRegs l ns s =
      .ok { s.raised (4 * (listedRegs l ns).length) with r := restored l s.mem ns s.sp.toNat s.r } := by
  induction ns generalizing s with
  | nil =>
    have hsp : s.raised 0 = s := by
      rw [State.raised, Nat.add_zero, BitVec.ofNat_toNat, BitVec.setWidth_eq]
      unfold State.setSp State.sp
      split <;> rfl
    change _ = Except.ok { s.raised 0 with r := s.r }
    rw [hsp]
    rfl
  | cons n ns ih =>
    rw [listedRegs_cons] at hlt hc ⊢
    unfold restoreRegs
    cases hn : l.getLsbD n.val with
    | false =>
      rw [restored_cons_other hn]
      simp only [hn, Bool.false_eq_true, if_false, Nat.zero_add] at hlt hc ⊢
      exact ih hx hlt hc
    | true =>
      rw [restored_cons_listed hn]
      simp only [hn, if_true] at hlt hc ⊢
      have hpop := pop_raised hx (checkAccess_part (m := 4) hc le_rfl (by omega)) (by omega)
      obtain ⟨u, hu⟩ : ∃ u, u = (s.raised 4).setReg (Fin.ofNat 8 (7 - n.val)) (BitVec.ofNat 32 (s.mem.readLE s.sp.toNat 4)) :=
        ⟨_, rfl⟩
      have husp : u.sp.toNat = s.sp.toNat + 4 := by
        rw [hu]
        exact State.raised_sp (by omega)
      have hur : u.r = s.r.set (Fin.ofNat 8 (7 - n.val)) (BitVec.ofNat 32 (s.mem.readLE s.sp.toNat 4)) := by
        rw [hu, State.setReg_r, State.raised_r]
      have hrest := ih (s := u) (by rw [hu]; simpa using hx) (by rw [husp]; omega)
        (by rw [husp]; exact checkAccess_part hc (by omega) (by omega))
      rw [hpop, Res.ok_bind]
      change restoreRegs l ns (State.setReg _ _ _) = _
      rw [← hu, hrest, husp, hur, hu, State.raised_setReg, State.raised_raised (by omega), State.setReg_mem, State.raised_mem,
        show 4 * (1 + (listedRegs l ns).length) = 4 + 4 * (listedRegs l ns).length by omega]

/-- Registers that the remaining bits do not name stay. -/
theorem restored_other {l : Byte} {m : Memory} {ns : List (Fin 8)} {a : Nat} {r : Vector Dword 8} {k : Fin 8}
    (hk : k ∉ ns) : (restored l m ns a r)[7 - k.val] = r[7 - k.val] := by
  induction ns generalizing a r with
  | nil => rfl
  | cons n ns ih =>
    obtain ⟨hne, hk⟩ := not_or.1 fun h => hk (List.mem_cons.2 h)
    cases hn : l.getLsbD n.val with
    | false =>
      simp only [restored_cons_other hn]
      exact ih hk
    | true =>
      simp only [restored_cons_listed hn]
      rw [ih hk, Vector.getElem_set_ne]
      rw [Fin.val_ofNat]
      intro h
      exact hne (Fin.ext (by omega))

theorem restored_append (l : Byte) (m : Memory) (xs ys : List (Fin 8)) (a : Nat) (r : Vector Dword 8) :
    restored l m (xs ++ ys) a r = restored l m ys (a + 4 * (listedRegs l xs).length) (restored l m xs a r) := by
  induction xs generalizing a r with
  | nil => rfl
  | cons n xs ih =>
    rw [List.cons_append, listedRegs_cons]
    cases hn : l.getLsbD n.val with
    | false =>
      rw [restored_cons_other hn, restored_cons_other hn, ih, if_neg Bool.false_ne_true, Nat.zero_add]
    | true =>
      rw [restored_cons_listed hn, restored_cons_listed hn, ih, if_pos rfl, Nat.mul_add, Nat.mul_one, Nat.add_assoc]

/-- Each register of a list gets the value popped for its bit (R444). -/
theorem restored_value (l : Byte) (m : Memory) (a : Nat) (r : Vector Dword 8) (k : Fin 8) :
    (restored l m listBits a r)[7 - k.val].toNat =
      if l.getLsbD k.val then m.readLE (a + 4 * listedBelow l k.val) 4 else r[7 - k.val].toNat := by
  have hsplit : ∀ k : Fin 8, listBits = listBits.take k.val ++ k :: listBits.drop (k.val + 1) ∧
      k ∉ listBits.take k.val ∧ k ∉ listBits.drop (k.val + 1) := by decide
  obtain ⟨he, htake, hdrop⟩ := hsplit k
  have hkey : restored l m listBits a r = restored l m (k :: listBits.drop (k.val + 1)) (a + 4 * listedBelow l k.val)
      (restored l m (listBits.take k.val) a r) := by
    conv_lhs => rw [he]
    rw [restored_append, ← listedBelow_eq l (by omega)]
  simp only [hkey]
  cases hk : l.getLsbD k.val with
  | true =>
    have hlt := Memory.readLE_lt m (a + 4 * listedBelow l k.val) 4
    have hidx : (Fin.ofNat 8 (7 - k.val)).val = 7 - k.val := by
      rw [Fin.val_ofNat]
      omega
    simp only [restored_cons_listed hk]
    rw [restored_other hdrop, if_pos trivial]
    simp only [hidx, Vector.getElem_set_self, BitVec.toNat_ofNat]
    exact Nat.mod_eq_of_lt hlt
  | false =>
    simp only [restored_cons_other hk]
    rw [restored_other hdrop, restored_other htake, if_neg Bool.false_ne_true]

theorem exec_restore (l : Byte) (s : State) :
    exec (.restore l) s = s.run (restoreRegs l listBits s >>= fun t => .ok (t.advance (.restore l))) := rfl

/-- `s` once the registers of a list are popped. -/
def State.restoredFrom (s : State) (l : Byte) : State :=
  { s.raised (4 * listedBelow l 8) with r := restored l s.mem listBits s.sp.toNat s.r }

theorem restoreRegs_all {l : Byte} {s : State} (hx : s.cut = .never)
    (hlt : s.sp.toNat + 4 * listedBelow l 8 < 16777216) (hc : checkAccess s.sp.toNat (4 * listedBelow l 8) = .ok ()) :
    restoreRegs l listBits s = .ok (s.restoredFrom l) := by
  rw [listedBelow_eight] at hlt hc
  rw [restoreRegs_never hx hlt hc, State.restoredFrom, listedBelow_eight]

theorem restore_completes {l : Byte} {s : State} (hx : s.cut = .never)
    (hlt : s.sp.toNat + 4 * listedBelow l 8 < 16777216) (hc : checkAccess s.sp.toNat (4 * listedBelow l 8) = .ok ()) :
    ∃ t, exec (.restore l) s = .next t ∧ StackMoved (4 * listedBelow l 8) s t ∧
      (∀ k : Fin 8, t.r[7 - k.val].toNat =
        if l.getLsbD k.val then s.mem.readLE (s.sp.toNat + 4 * listedBelow l k.val) 4 else s.r[7 - k.val].toNat) ∧
      SameFpRegs [] s t ∧ SameMemory s t ∧ SameFlags [] s t ∧ SameControl s t ∧ NextSequential (.restore l) s t := by
  have hmoved : StackMoved ((4 * listedBelow l 8 : Nat) : Int) s (s.restoredFrom l) := State.raised_moved hlt
  have hpc : (s.restoredFrom l).pc = s.pc := State.raised_pc ..
  refine ⟨(s.restoredFrom l).advance (.restore l), ?_, ?_, fun k => ?_, ?_⟩
  · rw [exec_restore, restoreRegs_all hx hlt hc]
    exact run_ok _ _
  · have h := hmoved.congr (t' := (s.restoredFrom l).advance (.restore l)) (by simp) (by simp)
    push_cast at h
    exact h
  · simp only [State.advance_r]
    exact restored_value l s.mem s.sp.toNat s.r k
  · refine ⟨?_, ?_, ?_, ?_, advance_next_of hpc _⟩ <;>
      simp [State.restoredFrom, SameFpRegs, SameMemory, SameFlags, SameControl, SameBases, SameSystem, State.flag]

/-- Settles O47: the pushes and the pops are inductions over the list of registers. -/
theorem saveRestore : Obligations.SaveRestore :=
  fun _ _ hw hx => ⟨fun hn hc => save_completes hw hx hn hc, fun hlt hc => restore_completes hx hlt hc⟩

/-! ## Frames (R445, R446) -/

/-- `s` with FP at its selected stack pointer (R445). -/
def State.framed (s : State) : State := { s with fp := s.sp }

theorem exec_enter (l : Byte) (d : Disp) (s : State) : exec (.enter l d) s =
    s.run (s.push 4 s.fp.toNat >>= fun s1 => saveRegs l listBits (s1.framed.addSp (-d.value)) >>= fun s2 =>
      .ok (s2.advance (.enter l d))) := rfl

theorem exec_exit (l : Byte) (s : State) : exec (.exit l) s =
    s.run (restoreRegs l listBits s >>= fun s1 => (s1.setSp s1.fp).pop 4 >>= fun p =>
      .ok (({ p.2 with fp := low24 p.1 } : State).advance (.exit l))) := rfl

theorem State.addSp_sp {s : State} {k : Int} (h0 : 0 ≤ (s.sp.toNat : Int) + k)
    (hlt : (s.sp.toNat : Int) + k < 16777216) : ((s.addSp k).sp.toNat : Int) = s.sp.toNat + k := by
  rw [← (s.addSp_moved k).1 h0 hlt, State.sp, State.addSp_flag]

section Enter
variable {s : State} {d : Disp} {b : Nat} (hb : (b : Int) = s.sp.toNat - 4 - d.value)
  (hlt : b < 16777216) (hn : 4 ≤ s.sp.toNat)

/-- ENTER once FP is saved and its constant subtracted: what it saves the registers from. -/
def State.entered (s : State) (d : Disp) : State :=
  (s.lowered 4 (s.mem.writeLE (s.sp.toNat - 4) 4 s.fp.toNat) .never).framed.addSp (-d.value)

@[simp] theorem State.entered_mem : (s.entered d).mem = s.mem.writeLE (s.sp.toNat - 4) 4 s.fp.toNat := by
  simp [State.entered, State.framed]

@[simp] theorem State.entered_cut : (s.entered d).cut = .never := by simp [State.entered, State.framed]
@[simp] theorem State.entered_r : (s.entered d).r = s.r := by simp [State.entered, State.framed]
@[simp] theorem State.entered_f : (s.entered d).f = s.f := by simp [State.entered, State.framed]
@[simp] theorem State.entered_psr : (s.entered d).psr = s.psr := by simp [State.entered, State.framed]
@[simp] theorem State.entered_flag (g : Flag) : (s.entered d).flag g = s.flag g := by
  rw [State.flag, State.entered_psr]; rfl
@[simp] theorem State.entered_pc : (s.entered d).pc = s.pc := by simp [State.entered, State.framed]
@[simp] theorem State.entered_sb : (s.entered d).sb = s.sb := by simp [State.entered, State.framed]
@[simp] theorem State.entered_mod : (s.entered d).mod = s.mod := by simp [State.entered, State.framed]
@[simp] theorem State.entered_intbase : (s.entered d).intbase = s.intbase := by simp [State.entered, State.framed]
@[simp] theorem State.entered_fsr : (s.entered d).fsr = s.fsr := by simp [State.entered, State.framed]
@[simp] theorem State.entered_interlock : (s.entered d).interlock = s.interlock := by simp [State.entered, State.framed]

theorem State.entered_system : SameSystem s (s.entered d) := by simp [State.entered, State.framed, SameSystem]

theorem State.framed_lowered_sp (s : State) (k : Nat) (m : Memory) (c : Cut) :
    (s.lowered k m c).framed.sp.toNat = s.sp.toNat - k ∧ (s.lowered k m c).framed.fp.toNat = s.sp.toNat - k :=
  ⟨s.lowered_sp k m c, s.lowered_sp k m c⟩

include hn

theorem State.entered_fp : (s.entered d).fp.toNat + 4 = s.sp.toNat := by
  have h := (s.framed_lowered_sp 4 (s.mem.writeLE (s.sp.toNat - 4) 4 s.fp.toNat) .never).2
  rw [State.entered, State.addSp_fp, h]
  omega

theorem State.entered_moved : StackMoved (-(4 + d.value)) s (s.entered d) := by
  have hlow : StackMoved (-(4 : Nat)) s (s.lowered 4 (s.mem.writeLE (s.sp.toNat - 4) 4 s.fp.toNat) .never).framed :=
    s.lowered_moved 4 (s.mem.writeLE (s.sp.toNat - 4) 4 s.fp.toNat) .never hn
  have hsp := s.sp.isLt
  have h := hlow.trans (State.addSp_moved _ (-d.value))
    (State.lowered_flag s 4 (s.mem.writeLE (s.sp.toNat - 4) 4 s.fp.toNat) .never .s) (by omega) (by omega)
  rwa [← neg_add] at h

include hb hlt

theorem State.entered_sp : (s.entered d).sp.toNat = b := by
  have hsp := (s.framed_lowered_sp 4 (s.mem.writeLE (s.sp.toNat - 4) 4 s.fp.toNat) .never).1
  have h := State.addSp_sp (s := (s.lowered 4 (s.mem.writeLE (s.sp.toNat - 4) 4 s.fp.toNat) .never).framed)
    (k := -d.value) (by rw [hsp]; omega) (by rw [hsp]; omega)
  rw [hsp] at h
  rw [State.entered]
  omega

end Enter

theorem enter_completes {l : Byte} {d : Disp} {b : Nat} {s : State} (hw : s.mem.wf = true) (hx : s.cut = .never)
    (hb : (b : Int) = s.sp.toNat - 4 - d.value) (hlt : b < 16777216) (hn : 4 ≤ s.sp.toNat)
    (hroom : 4 * listedBelow l 8 ≤ b) (hc : checkAccess (s.sp.toNat - 4) 4 = .ok ())
    (hc' : checkAccess (b - 4 * listedBelow l 8) (4 * listedBelow l 8) = .ok ()) :
    ∃ t, exec (.enter l d) s = .next t ∧ t.fp.toNat + 4 = s.sp.toNat ∧
      StackMoved (-(4 + d.value + 4 * listedBelow l 8)) s t ∧
      (∀ k : Fin 8, l.getLsbD k.val = true →
        t.mem.readLE (b - 4 * listedBelow l (k.val + 1)) 4 = s.r[k].toNat) ∧
      (∀ x < 4, s.sp.toNat - 4 + x < b - 4 * listedBelow l 8 ∨ b ≤ s.sp.toNat - 4 + x →
        (t.mem.read (s.sp.toNat - 4 + x)).toNat = s.fp.toNat / 256 ^ x % 256) ∧
      (∀ x, x < s.sp.toNat - 4 ∨ s.sp.toNat ≤ x → x < b - 4 * listedBelow l 8 ∨ b ≤ x →
        t.mem.read x = s.mem.read x) ∧
      SameRegs [] s t ∧ SameFpRegs [] s t ∧ SameFlags [] s t ∧ t.sb = s.sb ∧ t.mod = s.mod ∧
      t.intbase = s.intbase ∧ t.fsr = s.fsr ∧ t.interlock = s.interlock ∧ SameSystem s t ∧
      NextSequential (.enter l d) s t := by
  have hin : s.sp.toNat - 4 + 4 ≤ Config.memSize := by have := sp_in_memory s; omega
  have hsp := State.entered_sp hb hlt hn
  have hlen := savedValues_length l (s.entered d)
  have hval : savedValues l (s.entered d) = savedValues l s := by rw [savedValues, State.entered_r]; rfl
  obtain ⟨hvalues, hout⟩ := savedMem (l := l) (s := s) (m := (s.entered d).mem) (a := b)
    (by rw [State.entered_mem]; exact Memory.wf_writeLE hw hin) hroom (by simp only [Config.memSize]; omega)
  have hpush := pushAll_never (s := s.entered d) (vs := savedValues l (s.entered d)) (by simp) (by rw [hlen, hsp]; exact hroom)
    (by rw [hlen, hsp]; exact hc')
  have hmoved := (State.entered_moved hn).trans ((s.entered d).lowered_moved (4 * listedBelow l 8)
    (stackedMem (s.entered d).mem b (savedValues l s)) .never (by rw [hsp]; exact hroom)) (by simp) (by omega) (by omega)
  rw [hlen, hsp, hval] at hpush
  obtain ⟨u, hu⟩ : ∃ u, u = (s.entered d).lowered (4 * listedBelow l 8)
    (stackedMem (s.entered d).mem b (savedValues l s)) .never := ⟨_, rfl⟩
  rw [← hu] at hpush hmoved
  have hmem : u.mem = stackedMem (s.entered d).mem b (savedValues l s) := by rw [hu, State.lowered_mem]
  refine ⟨u.advance (.enter l d), ?_, ?_, ?_, fun k hk => ?_, fun x hx4 hx' => ?_, fun x hx1 hx2 => ?_, ?_⟩
  · rw [exec_enter, push_lowered _ hx hn hc, Res.ok_bind]
    change s.run (saveRegs l listBits (s.entered d) >>= _) = _
    rw [saveRegs_eq_pushAll]
    change s.run (pushAll (savedValues l (s.entered d)) (s.entered d) >>= _) = _
    rw [hval, hpush]
    exact run_ok _ _
  · rw [State.advance_fp, hu, State.lowered_fp, State.entered_fp hn]
  · have h := hmoved.congr (t' := u.advance (.enter l d)) (by simp) (by simp)
    rw [← neg_add] at h
    push_cast at h
    exact h
  · rw [State.advance_mem, hmem]
    exact hvalues k hk
  · rw [State.advance_mem, hmem, hout _ hx', State.entered_mem, Memory.read_writeLE_inside hw hin hx4, BitVec.toNat_ofNat]
  · rw [State.advance_mem, hmem, hout _ hx2, State.entered_mem, Memory.read_writeLE_outside hw hin (by omega)]
  · have hsystem : SameSystem s u := by
      rw [hu]
      simpa [SameSystem] using State.entered_system (s := s) (d := d)
    refine ⟨?_, ?_, ?_, ?_, ?_, ?_, ?_, ?_, ?_, advance_next_of (by rw [hu, State.lowered_pc, State.entered_pc]) _⟩
    · simp [hu, SameRegs]
    · simp [hu, SameFpRegs]
    · simp [hu, SameFlags]
    · simp [hu]
    · simp [hu]
    · simp [hu]
    · simp [hu]
    · simp [hu]
    · simpa [SameSystem] using hsystem

theorem exit_completes {l : Byte} {s : State} (hx : s.cut = .never)
    (hlt : s.sp.toNat + 4 * listedBelow l 8 < 16777216) (hc : checkAccess s.sp.toNat (4 * listedBelow l 8) = .ok ())
    (hfp : s.fp.toNat + 4 < 16777216) (hc' : checkAccess s.fp.toNat 4 = .ok ()) :
    ∃ t, exec (.exit l) s = .next t ∧ t.fp.toNat = s.mem.readLE s.fp.toNat 4 % 16777216 ∧
      (if s.flag .s then t.sp1.toNat = s.fp.toNat + 4 ∧ t.sp0 = s.sp0
        else t.sp0.toNat = s.fp.toNat + 4 ∧ t.sp1 = s.sp1) ∧
      (∀ k : Fin 8, t.r[7 - k.val].toNat =
        if l.getLsbD k.val then s.mem.readLE (s.sp.toNat + 4 * listedBelow l k.val) 4 else s.r[7 - k.val].toNat) ∧
      SameFpRegs [] s t ∧ SameMemory s t ∧ SameFlags [] s t ∧ t.sb = s.sb ∧ t.mod = s.mod ∧
      t.intbase = s.intbase ∧ t.fsr = s.fsr ∧ t.interlock = s.interlock ∧ SameSystem s t ∧
      NextSequential (.exit l) s t := by
  obtain ⟨u, hu⟩ : ∃ u, u = (s.restoredFrom l).setSp s.fp := ⟨_, rfl⟩
  have husp : u.sp = s.fp := by rw [hu, State.setSp_sp]
  have hufp : (s.restoredFrom l).fp = s.fp := State.raised_fp ..
  have hucut : u.cut = .never := by rw [hu, State.setSp_cut]; exact (State.raised_cut ..).trans hx
  have humem : u.mem = s.mem := by rw [hu, State.setSp_mem]; exact State.raised_mem ..
  have huflag : u.flag .s = s.flag .s := by
    rw [State.flag, hu, State.setSp_psr]
    exact State.raised_flag s _ .s
  have hupc : u.pc = s.pc := by rw [hu, State.setSp_pc]; exact State.raised_pc ..
  have hpop := pop_raised (s := u) (n := 4) hucut (by rw [husp]; exact hc') (by rw [husp]; exact hfp)
  rw [husp, humem] at hpop
  obtain ⟨v, hv⟩ : ∃ v : State, v = { u.raised 4 with fp := low24 (s.mem.readLE s.fp.toNat 4) } := ⟨_, rfl⟩
  have hvpc : v.pc = s.pc := by rw [hv]; exact (State.raised_pc ..).trans hupc
  have h4 : (BitVec.ofNat 24 (s.fp.toNat + 4)).toNat = s.fp.toNat + 4 := by
    rw [BitVec.toNat_ofNat]
    exact Nat.mod_eq_of_lt hfp
  refine ⟨v.advance (.exit l), ?_, ?_, ?_, fun k => ?_, ?_⟩
  · rw [exec_exit, restoreRegs_all hx hlt hc, Res.ok_bind, hufp, ← hu, hpop, Res.ok_bind, hv]
    exact run_ok _ _
  · rw [State.advance_fp, hv]
    exact low24_toNat _
  · rw [State.advance_sp0, State.advance_sp1, hv]
    change if s.flag .s then (u.raised 4).sp1.toNat = _ ∧ (u.raised 4).sp0 = _
      else (u.raised 4).sp0.toNat = _ ∧ (u.raised 4).sp1 = _
    rw [State.raised_sp0, State.raised_sp1, huflag, husp, hu, State.setSp_sp0, State.setSp_sp1]
    have hflag : (s.restoredFrom l).flag .s = s.flag .s := State.raised_flag s _ .s
    have h0 : (s.restoredFrom l).sp0 = (s.raised (4 * listedBelow l 8)).sp0 := rfl
    have h1 : (s.restoredFrom l).sp1 = (s.raised (4 * listedBelow l 8)).sp1 := rfl
    rw [hflag, h0, h1, State.raised_sp0, State.raised_sp1]
    cases hs : s.flag .s <;> simp [h4]
  · have hr : v.r = restored l s.mem listBits s.sp.toNat s.r := by
      rw [hv]
      change (u.raised 4).r = _
      rw [State.raised_r, hu, State.setSp_r]
      rfl
    simp only [State.advance_r, hr]
    exact restored_value l s.mem s.sp.toNat s.r k
  · refine ⟨?_, ?_, ?_, ?_, ?_, ?_, ?_, ?_, ?_, advance_next_of hvpc _⟩
    · simp [hv, hu, SameFpRegs, State.restoredFrom]
    · simp [hv, hu, SameMemory, State.restoredFrom]
    · simp [hv, hu, SameFlags, State.restoredFrom, State.flag]
    · simp [hv, hu, State.restoredFrom]
    · simp [hv, hu, State.restoredFrom]
    · simp [hv, hu, State.restoredFrom]
    · simp [hv, hu, State.restoredFrom]
    · simp [hv, hu, State.restoredFrom]
    · simp [hv, hu, SameSystem, State.restoredFrom]

/-- Settles O48: the frame is one push and one subtraction, then the registers are saved and restored as for O47. -/
theorem enterExit : Obligations.EnterExit :=
  fun _ _ _ _ hw hx => ⟨fun hb hlt hn hroom hc hc' => enter_completes hw hx hb hlt hn hroom hc hc',
    fun hlt hc hfp hc' => exit_completes hx hlt hc hfp hc'⟩

end Sys2Proof.Machine
end

section
/-! PROOFS. The block and array instructions (46_block_and_array.md). -/
namespace Sys2Proof.Machine

/-! ## Reads in states that hold the same memory -/

theorem memRead_congr {s t : State} {a : Dword} {n v : Nat} (hc : t.cut = s.cut) (hm : t.mem = s.mem)
    (h : s.memRead a n = .ok v) : t.memRead a n = .ok v := by
  obtain ⟨ha, hk, rfl⟩ := State.memRead_ok.1 h
  refine State.memRead_ok.2 ⟨?_, hk, by rw [hm]⟩
  rw [State.abortsRead, hc]
  exact ha

/-- The number of elements a length displacement gives (R380). -/
theorem blockCount_eq {n m : Nat} {d : Int} (hn : 0 < n) (hm : 1 ≤ m) (h16 : m * n ≤ 16) (hd : d = ((m - 1) * n : Nat)) :
    blockCount n d = .ok m := by
  obtain ⟨k, rfl⟩ : ∃ k, m = k + 1 := ⟨m - 1, by omega⟩
  rw [Nat.add_sub_cancel] at hd
  rw [Nat.add_mul, Nat.one_mul] at h16
  have hmod : d % n = 0 := by rw [hd]; push_cast; exact Int.mul_emod_left _ _
  rw [blockCount, if_pos ⟨by omega, hmod, by omega⟩, hd, Int.toNat_natCast, Nat.mul_div_cancel _ hn]

/-! ## CMPMi (R383) -/

/-- Comparing blocks stops at the first unequal pair. -/
theorem compareBlocks_eq {s : State} {n m j : Nat} {a b : Dword} {x y : Nat → Nat}
    (hread : ∀ k ≤ j, k < m → s.memRead (a + BitVec.ofNat 32 (k * n)) n = .ok (x k) ∧
      s.memRead (b + BitVec.ofNat 32 (k * n)) n = .ok (y k))
    (heq : ∀ k < j, k < m → x k = y k) (hne : j < m → x j ≠ y j) :
    compareBlocks s n m a b = .ok (if j < m then cmpFlags (8 * n) (x j) (y j) s.psr else s.psr) := by
  induction m generalizing j a b x y with
  | zero => rfl
  | succ m ih =>
    obtain ⟨hx, hy⟩ := hread 0 (by omega) (by omega)
    rw [Nat.zero_mul, show BitVec.ofNat 32 0 = 0#32 from rfl, BitVec.add_zero] at hx hy
    rw [compareBlocks, hx, Res.ok_bind, hy, Res.ok_bind]
    cases j with
    | zero => rw [if_neg (hne (by omega)), if_pos (by omega)]
    | succ j =>
      have hshift (c : Dword) (k : Nat) : c + BitVec.ofNat 32 n + BitVec.ofNat 32 (k * n) =
          c + BitVec.ofNat 32 ((k + 1) * n) := by
        rw [BitVec.add_assoc, ← BitVec.ofNat_add, Nat.add_mul, Nat.one_mul, Nat.add_comm n]
      rw [if_pos (heq 0 (by omega) (by omega)), ih (j := j) (x := fun k => x (k + 1)) (y := fun k => y (k + 1))]
      · simp only [Nat.add_lt_add_iff_right]
      · intro k hk hlt
        rw [hshift, hshift]
        exact hread (k + 1) (by omega) (by omega)
      · exact fun k hk hlt => heq (k + 1) (by omega) (by omega)
      · exact fun hlt => hne (by omega)

theorem exec_cmpmi (i : IntLen) (block1 block2 : Gen) (len : Disp) (s : State) :
    exec (.cmpmi i block1 block2 len) s = s.run (blockCount i.bytes len.value >>= fun k =>
      addrOf s s block1 >>= fun a => addrOf s s block2 >>= fun b =>
        compareBlocks { s with psr := cmpFlags 8 0 0 s.psr } i.bytes k a b >>= fun w =>
          .ok (({ s with psr := w } : State).advance (.cmpmi i block1 block2 len))) := rfl

theorem equalFlags_of_compared {bits a : Nat} {w : Word} (h : Compared bits a a w) : EqualFlags w := by
  obtain ⟨hz, hn, hl⟩ := h
  exact ⟨hz.2 rfl, Bool.eq_false_iff.2 fun h => lt_irrefl _ (hn.1 h), Bool.eq_false_iff.2 fun h => lt_irrefl _ (hl.1 h)⟩

/-- A state in which only flags are written, control passed on. -/
theorem flags_onlyControl {ks : List Flag} {s : State} {w : Word} (i : Instr)
    (hw : ∀ k, k ∉ ks → flag w k = s.flag k) :
    OnlyControl ks s (({ s with psr := w } : State).advance i) ∧
      NextSequential i s (({ s with psr := w } : State).advance i) := by
  refine ⟨⟨?_, fun k hk => ?_⟩, advance_next_of (u := { s with psr := w }) rfl i⟩
  · simp [SameData, SameRegs, SameFpRegs, SameMemory, SameStack, SameControl, SameBases, SameSystem]
  · rw [State.advance_flag]
    exact hw k hk

/-- Settles O40: the flags are those of the first unequal pair, or say equal from the start. -/
theorem blockCompare : Obligations.BlockCompare := by
  intro i block1 block2 len m j s a b x y hm h16 hlen ha hb hread heq hne
  have hcount := blockCount_eq (show 0 < i.bytes by cases i <;> decide) hm h16 hlen
  have hread' : ∀ k ≤ j, k < m →
      ({ s with psr := cmpFlags 8 0 0 s.psr } : State).memRead (a + BitVec.ofNat 32 (k * i.bytes)) i.bytes = .ok (x k) ∧
      ({ s with psr := cmpFlags 8 0 0 s.psr } : State).memRead (b + BitVec.ofNat 32 (k * i.bytes)) i.bytes = .ok (y k) :=
    fun k hk hlt => ⟨memRead_congr (s := s) rfl rfl (hread k hk hlt).1, memRead_congr (s := s) rfl rfl (hread k hk hlt).2⟩
  have hcmp := compareBlocks_eq hread' heq hne
  obtain ⟨w, hw⟩ : ∃ w, w = if j < m then cmpFlags (8 * i.bytes) (x j) (y j) (cmpFlags 8 0 0 s.psr)
    else cmpFlags 8 0 0 s.psr := ⟨_, rfl⟩
  have hflags : ∀ k, k ∉ [Flag.z, .n, .l] → flag w k = s.flag k := by
    intro k hk
    rw [hw]
    split
    · rw [flag_cmpFlags hk, flag_cmpFlags hk]
      rfl
    · exact flag_cmpFlags hk
  refine ⟨({ s with psr := w } : State).advance (.cmpmi i block1 block2 len), ?_, ?_,
    flags_onlyControl (.cmpmi i block1 block2 len) hflags⟩
  · rw [exec_cmpmi, hcount, Res.ok_bind, ha, Res.ok_bind, hb, Res.ok_bind, hcmp, ← hw]
    exact run_ok _ _
  · rw [State.advance_psr, hw]
    split
    · rw [i.bits_eq]
      exact compared_cmpFlags (by rw [← i.bits_eq]; exact i.bits_pos) _ _ _
    · exact equalFlags_of_compared (compared_cmpFlags (by decide) 0 0 s.psr)

/-! ## MOVMi (R382) -/

theorem toNat_add_ofNat {a : Dword} {n : Nat} (h : a.toNat + n < 2 ^ 32) : (a + BitVec.ofNat 32 n).toNat = a.toNat + n := by
  rw [BitVec.toNat_add, BitVec.toNat_ofNat]
  omega

/-- Moving elements completes wherever both blocks can be accessed, writes block2 alone, and copies block1 where the
values are not free and the blocks are apart (R382, U21). -/
theorem moveBlocks_completes {n k : Nat} {free : Bool} {a b : Dword} {s : State} (hw : s.mem.wf = true)
    (hx : s.cut = .never) (ha : checkAccess a.toNat (k * n) = .ok ()) (hb : checkAccess b.toNat (k * n) = .ok ()) :
    ∃ (m : Memory) (c : Nat), moveBlocks n free k a b s = .ok { s with mem := m, freeCount := c } ∧
      (∀ x, x < b.toNat ∨ b.toNat + k * n ≤ x → m.read x = s.mem.read x) ∧
      (free = false → a.toNat + k * n ≤ b.toNat ∨ b.toNat + k * n ≤ a.toNat →
        m.readLE b.toNat (k * n) = s.mem.readLE a.toNat (k * n)) := by
  induction k generalizing a b s with
  | zero => exact ⟨s.mem, s.freeCount, rfl, fun _ _ => rfl, fun _ _ => by rw [Nat.zero_mul]; rfl⟩
  | succ k ih =>
    have hmul : (k + 1) * n = n + k * n := by rw [Nat.add_mul, Nat.one_mul, Nat.add_comm]
    rw [hmul] at ha hb ⊢
    have hain := (checkAccess_ok.1 ha).1
    have hbin := (checkAccess_ok.1 hb).1
    simp only [Config.memSize] at hain hbin
    have ha' := toNat_add_ofNat (a := a) (n := n) (by omega)
    have hb' := toNat_add_ofNat (a := b) (n := n) (by omega)
    have hbn : b.toNat + n ≤ Config.memSize := by simp only [Config.memSize]; omega
    obtain ⟨x, c1, hx1, hstep⟩ : ∃ x c1, (free = false → x = s.mem.readLE a.toNat n) ∧
        moveBlocks n free (k + 1) a b s = moveBlocks n free k (a + BitVec.ofNat 32 n) (b + BitVec.ofNat 32 n)
          { s with mem := s.mem.writeLE b.toNat n x, freeCount := c1 } := by
      have hread := State.memRead_never hx (checkAccess_part (m := n) ha le_rfl (by omega))
      have hcb := checkAccess_part (m := n) hb le_rfl (by omega)
      cases free with
      | false =>
        refine ⟨s.mem.readLE a.toNat n, s.freeCount, fun _ => rfl, ?_⟩
        simp only [moveBlocks, hread, Res.ok_bind, Bool.false_eq_true, if_false, State.memWrite_never _ hx hcb]
      | true =>
        refine ⟨(s.freshNat (8 * n)).1, s.freeCount + 1, nofun, ?_⟩
        have hwrite := State.memWrite_never (s := (s.freshNat (8 * n)).2) (s.freshNat (8 * n)).1 hx hcb
        simp only [moveBlocks, hread, Res.ok_bind, if_true, hwrite]
        rfl
    obtain ⟨m, c, hmove, hout, hcopy⟩ := ih (a := a + BitVec.ofNat 32 n) (b := b + BitVec.ofNat 32 n)
      (s := { s with mem := s.mem.writeLE b.toNat n x, freeCount := c1 }) (Memory.wf_writeLE hw hbn) hx
      (by rw [ha']; exact checkAccess_part ha (by omega) (by omega))
      (by rw [hb']; exact checkAccess_part hb (by omega) (by omega))
    rw [ha', hb'] at hcopy
    rw [hb'] at hout
    refine ⟨m, c, hstep.trans hmove, fun y hy => ?_, fun hfree hapart => ?_⟩
    · rw [hout y (by omega)]
      exact Memory.read_writeLE_outside hw hbn (by omega)
    · have hfirst : m.readLE b.toNat n = s.mem.readLE a.toNat n := by
        have h := Memory.readLE_writeLE (v := x) hw hbn
        rw [Memory.readLE_congr fun y _ _ => hout y (by omega), h, hx1 hfree, Nat.mod_eq_of_lt (Memory.readLE_lt _ _ _)]
      have hrest : (s.mem.writeLE b.toNat n x).readLE (a.toNat + n) (k * n) = s.mem.readLE (a.toNat + n) (k * n) :=
        Memory.readLE_writeLE_outside hw hbn (by omega)
      rw [Memory.readLE_add, Memory.readLE_add, hfirst, hcopy hfree (by omega), hrest]

theorem exec_movmi (i : IntLen) (block1 block2 : Gen) (len : Disp) (s : State) :
    exec (.movmi i block1 block2 len) s = s.run (blockCount i.bytes len.value >>= fun k =>
      addrOf s s block1 >>= fun a => addrOf s s block2 >>= fun b =>
        moveBlocks i.bytes (overlap a b (k * i.bytes)) k a b s >>= fun t =>
          .ok (t.advance (.movmi i block1 block2 len))) := rfl

/-- Settles O39: element by element, each write inside block2. -/
theorem blockMove : Obligations.BlockMove := by
  intro i block1 block2 len m s a b v old hw hx hm h16 hlen ha hb hv hold
  obtain ⟨-, hca, rfl⟩ := State.memRead_ok.1 hv
  obtain ⟨-, hcb, -⟩ := State.memRead_ok.1 hold
  have hcount := blockCount_eq (show 0 < i.bytes by cases i <;> decide) hm h16 hlen
  obtain ⟨mem, c, hmove, hout, hcopy⟩ := moveBlocks_completes (free := overlap a b (m * i.bytes)) hw hx hca hcb
  obtain ⟨u, hu⟩ : ∃ u : State, u = { s with mem := mem, freeCount := c } := ⟨_, rfl⟩
  rw [← hu] at hmove
  refine ⟨u.advance (.movmi i block1 block2 len), ?_, fun hapart => ?_, ?_⟩
  · rw [exec_movmi, hcount, Res.ok_bind, ha, Res.ok_bind, hb, Res.ok_bind, hmove]
    exact run_ok _ _
  · have hfree : overlap a b (m * i.bytes) = false := by
      rw [overlap, Bool.and_eq_false_iff, decide_eq_false_iff_not, decide_eq_false_iff_not]
      omega
    rw [← hcopy hfree hapart, State.memRead_never (by rw [State.advance_cut, hu]; exact hx) hcb, State.advance_mem, hu]
  · refine ⟨?_, ?_, fun x hx' => ?_, ?_, ?_, ?_, advance_next_of (by rw [hu]) _⟩
    · simp [hu, SameRegs]
    · simp [hu, SameFpRegs]
    · rw [State.advance_mem, hu]
      exact hout x hx'
    · simp [hu, SameFlags, State.flag]
    · simp [hu, SameStack]
    · simp [hu, SameControl, SameBases, SameSystem]

/-! ## CHECKi and INDEXi (R384, R385) -/

theorem getElem_setReg_same (s : State) (k : Fin 8) (v : Dword) : (s.setReg k v).r[k] = v := by
  simp only [State.setReg_r, Fin.getElem_fin, Vector.getElem_set_self]

theorem sameRegs_setReg (s : State) (k : Fin 8) (v : Dword) : SameRegs [k] s (s.setReg k v) := by
  intro j hj
  rw [List.mem_singleton] at hj
  simp only [State.setReg_r, Fin.getElem_fin]
  rw [Vector.getElem_set_ne]
  exact fun e => hj (Fin.ext e.symm)

/-- What CHECKi does once its operands are read: F says whether the value is out of bounds (R384). -/
theorem exec_checki {i : IntLen} {k : Fin 8} {bounds src : Gen} {s s1 : State} {a : Dword} {u l v : Nat}
    (ha : addrOf s s bounds = .ok a) (hu : s.memRead a i.bytes = .ok u)
    (hl : s.memRead (a + BitVec.ofNat 32 i.bytes) i.bytes = .ok l) (hv : readOp .int i.bytes s s src = .ok (v, s1)) :
    ∃ (x : Dword) (c : Nat), exec (.checki i k bounds src) s =
      .next ((((s1.drawn c).setReg k x).setFlag .f
        (!decide (signed i.bits l ≤ signed i.bits v ∧ signed i.bits v ≤ signed i.bits u))).advance
        (.checki i k bounds src)) ∧
      (signed i.bits l ≤ signed i.bits v ∧ signed i.bits v ≤ signed i.bits u →
        x = BitVec.ofInt 32 (signed i.bits v - signed i.bits l)) := by
  have he : exec (.checki i k bounds src) s = execChecki i k bounds src s := rfl
  by_cases hin : signed i.bits l ≤ signed i.bits v ∧ signed i.bits v ≤ signed i.bits u
  · refine ⟨BitVec.ofInt 32 (signed i.bits v - signed i.bits l), s1.freeCount, ?_, fun _ => rfl⟩
    rw [he, decide_eq_true hin]
    simp only [execChecki, ha, hu, hl, hv, Res.ok_bind, sext_eq_signed i.bits_pos]
    rw [if_neg (by omega)]
    exact run_ok _ _
  · refine ⟨BitVec.ofNat 32 (s1.freshNat 32).1, s1.freeCount + 1, ?_, fun h => absurd h hin⟩
    rw [he, decide_eq_false hin]
    simp only [execChecki, ha, hu, hl, hv, Res.ok_bind, sext_eq_signed i.bits_pos]
    rw [if_pos (by omega)]
    exact run_ok _ _

theorem exec_indexi {i : IntLen} {k : Fin 8} {len idx : Gen} {s s1 s2 : State} {v w : Nat}
    (hv : readOp .int i.bytes s s len = .ok (v, s1)) (hw : readOp .int i.bytes s s1 idx = .ok (w, s2)) :
    exec (.indexi i k len idx) s = .next ((s2.setReg k (BitVec.ofNat 32 (s.r[k].toNat * (v + 1) + w))).advance
      (.indexi i k len idx)) := by
  change execIndexi i k len idx s = _
  simp only [execIndexi, hv, hw, Res.ok_bind]
  exact run_ok _ _

/-- Settles O41: each writes one register, CHECKi F too. -/
theorem checkIndex : Obligations.CheckIndex := by
  intro i k bounds src s s1 s2 a u l v w
  refine ⟨fun ha hu hl hv => ?_, fun hv hw => ?_⟩
  · obtain ⟨-, -, -, -, hpc, -, -, -⟩ := readOp_frame hv
    obtain ⟨x, c, he, hx⟩ := exec_checki (k := k) ha hu hl hv
    obtain ⟨b, hb⟩ : ∃ b, b = !decide (signed i.bits l ≤ signed i.bits v ∧ signed i.bits v ≤ signed i.bits u) :=
      ⟨_, rfl⟩
    obtain ⟨t, ht⟩ : ∃ t, t = ((s1.drawn c).setReg k x).setFlag .f b := ⟨_, rfl⟩
    rw [← hb, ← ht] at he
    have hf : (t.advance (.checki i k bounds src)).flag .f = b := by
      rw [State.advance_flag, ht]
      exact flag_putFlag_same ..
    have hr : t.r = ((s1.drawn c).setReg k x).r := by rw [ht]; rfl
    refine ⟨_, he, ?_, fun j hj => ?_, ?_, ?_, fun j hj => ?_, ?_, ?_, advance_next_of (by rw [ht]; exact hpc) _⟩
    · rw [hf, hb]
      by_cases hin : signed i.bits l ≤ signed i.bits v ∧ signed i.bits v ≤ signed i.bits u
      · rw [if_pos hin, decide_eq_true hin, ← hx hin, State.advance_r, hr]
        exact ⟨rfl, getElem_setReg_same ..⟩
      · rw [if_neg hin, decide_eq_false hin]
        rfl
    · rw [State.advance_r, hr]
      exact sameRegs_setReg (s1.drawn c) k x j hj
    · simp [SameFpRegs, ht, State.drawn]
    · simp [SameMemory, ht, State.drawn]
    · rw [State.advance_flag, ht]
      exact flag_putFlag_other _ _ (List.ne_of_not_mem_cons hj)
    · simp [SameStack, ht, State.drawn]
    · simp [SameControl, SameBases, SameSystem, ht, State.drawn]
  · obtain ⟨-, -, -, -, hpc, -, -, -⟩ := readOp_frame hv
    obtain ⟨-, -, -, -, hpc', -, -, -⟩ := readOp_frame hw
    refine ⟨_, exec_indexi hv hw, ?_, fun j hj => ?_, ?_⟩
    · simp only [State.advance_r]
      rw [getElem_setReg_same, BitVec.toNat_ofNat]
    · simp only [State.advance_r]
      exact sameRegs_setReg s2 k _ j hj
    · refine ⟨?_, ?_, ?_, ?_, ?_, advance_next_of (u := State.setReg _ _ _) (hpc'.trans hpc) _⟩ <;>
        simp [SameFpRegs, SameMemory, SameFlags, SameStack, SameControl, SameBases, SameSystem, State.flag]

end Sys2Proof.Machine
end

section
/-! PROOFS. The String instructions (45_string.md). -/
namespace Sys2Proof.Machine

/-! ## The shape of a String instruction -/

theorem stringMatch_iff {o : StrOpt} {x m : Nat} : stringMatch o x m = true ↔ Matches o x m := by
  rw [stringMatch, Matches]
  split <;> rename_i h <;> simp [h]

theorem nextElement_eq (o : StrOpt) (n : Nat) (a : Dword) : nextElement o n a = a + BitVec.ofInt 32 (stride o n) := by
  rw [nextElement, stride]
  split
  · rw [BitVec.ofInt_neg, BitVec.ofInt_natCast, BitVec.sub_eq_add_neg]
  · rw [BitVec.ofInt_natCast]

section
variable {ins : Instr} {n : Nat} {tr two : Bool} {o : StrOpt} {init : Word → Word}
  {act : Nat → State → Res (Bool × State)} {s : State}

/-- A count of 2^31 or more stops (U25). -/
theorem stringShape_negative (h : 2 ^ 31 ≤ s.r[0].toNat) :
    stringShape ins n tr o two init act s = faultWith .negativeCount := by
  rw [stringShape]
  exact if_pos h

/-- A count of 0 ends the instruction with F clear (R363). -/
theorem stringShape_zero (h : s.r[0] = 0) :
    stringShape ins n tr o two init act s = .ok (({ s with psr := init s.psr } : State).terminate ins false) := by
  rw [stringShape, if_neg (by rw [h]; decide)]
  exact if_pos h

/-- An element of a positive count ends the instruction at a match, and is acted on elsewhere (R363). -/
theorem stringShape_element {e x : Nat} (h0 : 0 < s.r[0].toNat) (h31 : s.r[0].toNat < 2 ^ 31)
    (he : s.memRead s.r[1] n = .ok e)
    (hx : if tr then s.memRead (s.r[3] + BitVec.ofNat 32 e) 1 = .ok x else x = e) :
    stringShape ins n tr o two init act s =
      if stringMatch o x (s.r[4].toNat % 256 ^ n) then .ok (({ s with psr := init s.psr } : State).terminate ins true)
      else act x { s with psr := init s.psr } >>= fun p =>
        if p.1 then .ok (p.2.elementDone o n two) else .ok (p.2.terminate ins false) := by
  obtain ⟨s0, hs0⟩ : ∃ s0 : State, s0 = { s with psr := init s.psr } := ⟨_, rfl⟩
  have hr : s0.r = s.r := by rw [hs0]
  have hzero : s.r[0] ≠ 0#32 := fun h => by rw [h] at h0; exact absurd h0 (by decide)
  have he' : s0.memRead s.r[1] n = .ok e :=
    memRead_congr (s := s) (by rw [hs0]) (by rw [hs0]) he
  rw [stringShape, if_neg (by omega)]
  simp only [← hs0]
  rw [if_neg hzero, he', Res.ok_bind]
  cases tr with
  | true =>
    have hx' : s0.memRead (s.r[3] + BitVec.ofNat 32 e) 1 = .ok x :=
      memRead_congr (s := s) (by rw [hs0]) (by rw [hs0]) hx
    rw [if_pos rfl, hx', State.regLow, hr]
    rfl
  | false =>
    obtain rfl : x = e := hx
    rw [State.regLow, hr]
    rfl

end

/-! ## The state a String instruction leaves -/

/-- A terminated String instruction has written F, and the flags its first step gave. -/
theorem terminate_ends {s u : State} {w : Word} {f : Bool} (hu : u = { s with psr := w }) (ins : Instr) :
    (u.terminate ins f).flag .f = f ∧ SameData s (u.terminate ins f) ∧ NextSequential ins s (u.terminate ins f) ∧
      ∀ k, k ≠ Flag.f → (u.terminate ins f).flag k = flag w k := by
  refine ⟨?_, ?_, advance_next_of (u := u.setFlag .f f) (by rw [hu]; rfl) ins, fun k hk => ?_⟩
  · rw [State.terminate, State.advance_flag]
    exact flag_putFlag_same ..
  · simp [State.terminate, hu, SameData, SameRegs, SameFpRegs, SameMemory, SameStack, SameControl, SameBases, SameSystem]
  · rw [State.terminate, State.advance_flag, hu]
    exact flag_putFlag_other _ _ hk

/-- A done element moves R1, counts in R0, and moves R2 where there is a String 2; nothing else changes. -/
theorem elementDone_regs (s : State) (o : StrOpt) (n : Nat) (two : Bool) :
    (s.elementDone o n two).r[0] = s.r[0] - 1 ∧
      (s.elementDone o n two).r[1] = s.r[1] + BitVec.ofInt 32 (stride o n) ∧
      (s.elementDone o n two).r[2] = (if two then s.r[2] + BitVec.ofInt 32 (stride o n) else s.r[2]) ∧
      SameRegs [0, 1, 2] s (s.elementDone o n two) := by
  simp only [← nextElement_eq]
  refine ⟨?_, ?_, ?_, fun j hj => ?_⟩
  · cases two <;> simp [State.elementDone]
  · cases two <;> simp [State.elementDone]
  · cases two <;> simp [State.elementDone]
  · simp only [List.mem_cons, List.not_mem_nil, or_false, not_or] at hj
    obtain ⟨h0, h1, h2⟩ := hj
    have keep (u : State) (k : Fin 8) (v : Dword) (hk : j ≠ k) : (u.setReg k v).r[j] = u.r[j] :=
      sameRegs_setReg u k v j (List.mem_singleton.not.2 hk)
    cases two with
    | false => exact (keep _ _ _ h0).trans (keep _ _ _ h1)
    | true => exact (keep _ _ _ h0).trans ((keep _ _ _ h2).trans (keep _ _ _ h1))

/-- Everything a String instruction's step keeps, whether or not it goes on, from a state that differs in memory and
PSR alone. -/
theorem elementDone_same (s : State) (o : StrOpt) (n : Nat) (two : Bool) :
    (s.elementDone o n two).mem = s.mem ∧ (s.elementDone o n two).cut = s.cut ∧
      (s.elementDone o n two).psr = s.psr ∧ (s.elementDone o n two).pc = s.pc ∧
      SameFpRegs [] s (s.elementDone o n two) ∧ SameStack s (s.elementDone o n two) ∧
      SameControl s (s.elementDone o n two) := by
  cases two <;>
    exact ⟨rfl, rfl, rfl, rfl, fun _ _ => rfl, ⟨rfl, rfl⟩,
      ⟨⟨rfl, rfl, rfl, rfl⟩, ⟨rfl, rfl, rfl, rfl, rfl⟩, rfl, rfl⟩⟩

/-! ## The six String instructions -/

theorem flag_equalFlags {w : Word} {k : Flag} (hk : k ∉ [Flag.z, .n, .l]) : flag (equalFlags w) k = flag w k := by
  simp only [List.mem_cons, List.not_mem_nil, or_false, not_or] at hk
  obtain ⟨hz, hn, hl⟩ := hk
  rw [equalFlags, flag_putFlag_other _ _ hl, flag_putFlag_other _ _ hn, flag_putFlag_other _ _ hz]

theorem equalFlags_equal (w : Word) : EqualFlags (equalFlags w) := by
  refine ⟨?_, ?_, flag_putFlag_same ..⟩
  · rw [equalFlags, flag_putFlag_other _ _ (by decide), flag_putFlag_other _ _ (by decide), flag_putFlag_same]
  · rw [equalFlags, flag_putFlag_other _ _ (by decide), flag_putFlag_same]

/-- Equality is a matter of Z, N and L. -/
theorem EqualFlags.congr {v w : Word} (h : EqualFlags v) (hk : ∀ k ∈ [Flag.z, .n, .l], flag w k = flag v k) :
    EqualFlags w := by
  obtain ⟨hz, hn, hl⟩ := h
  exact ⟨(hk .z (by decide)).trans hz, (hk .n (by decide)).trans hn, (hk .l (by decide)).trans hl⟩

/-- A comparison is a matter of Z, N and L. -/
theorem Compared.congr {bits a b : Nat} {v w : Word} (h : Compared bits a b v)
    (hk : ∀ k ∈ [Flag.z, .n, .l], flag w k = flag v k) : Compared bits a b w := by
  rw [Compared, hk .z (by decide), hk .n (by decide), hk .l (by decide)]
  exact h

/-- The MOVS, CMPS or SKPS instruction of an element length, or with translation. -/
theorem exec_movs {i : IntLen} {o : StrOpt} {tr : Bool} {n : Nat} (hn : n = if tr then 1 else i.bytes) (s : State) :
    exec (if tr then .movst o else .movsi i o) s =
      s.run (stringShape (if tr then .movst o else .movsi i o) n tr o true id (moveElement n) s) := by
  subst hn
  cases tr <;> rfl

theorem exec_cmps {i : IntLen} {o : StrOpt} {tr : Bool} {n : Nat} (hn : n = if tr then 1 else i.bytes) (s : State) :
    exec (if tr then .cmpst o else .cmpsi i o) s =
      s.run (stringShape (if tr then .cmpst o else .cmpsi i o) n tr o true equalFlags (compareElement n) s) := by
  subst hn
  cases tr <;> rfl

theorem exec_skps {i : IntLen} {o : StrOpt} {tr : Bool} {n : Nat} (hn : n = if tr then 1 else i.bytes) (s : State) :
    exec (if tr then .skpst o else .skpsi i o) s =
      s.run (stringShape (if tr then .skpst o else .skpsi i o) n tr o false id skipElement s) := by
  subst hn
  cases tr <;> rfl

/-- An element without a match of an instruction of the shape: what its action does, and the element done. -/
theorem run_stringShape_goes {ins : Instr} {n : Nat} {tr two : Bool} {o : StrOpt} {init : Word → Word}
    {act : Nat → State → Res (Bool × State)} {s u : State} {e x : Nat} (h0 : 0 < s.r[0].toNat)
    (h31 : s.r[0].toNat < 2 ^ 31) (he : s.memRead s.r[1] n = .ok e)
    (hx : if tr then s.memRead (s.r[3] + BitVec.ofNat 32 e) 1 = .ok x else x = e)
    (hno : ¬ Matches o x (s.r[4].toNat % 256 ^ n)) (hact : act x { s with psr := init s.psr } = .ok (true, u)) :
    s.run (stringShape ins n tr o two init act s) = .next (u.elementDone o n two) := by
  rw [stringShape_element h0 h31 he hx, if_neg (fun h => hno (stringMatch_iff.1 h)), hact, Res.ok_bind, if_pos rfl]
  exact run_ok _ _

/-- Settles O37: the shape of an element, with the action of each of the three instructions. -/
theorem stringElement : Obligations.StringElement := by
  intro i o tr n s e x y hn hw hcut h0 h31 he hx hno
  refine ⟨fun hy => ?_, fun hy => ?_, ?_⟩
  · obtain ⟨-, hc, -⟩ := State.memRead_ok.1 hy
    have hin := (checkAccess_ok.1 hc).1
    have hlt : x < 256 ^ n := by
      cases tr with
      | true =>
        obtain ⟨-, -, rfl⟩ := State.memRead_ok.1 hx
        rw [hn]
        exact Memory.readLE_lt _ _ _
      | false =>
        obtain rfl : x = e := hx
        obtain ⟨-, -, rfl⟩ := State.memRead_ok.1 he
        exact Memory.readLE_lt _ _ _
    obtain ⟨u, hu⟩ : ∃ u : State, u = { s with mem := s.mem.writeLE s.r[2].toNat n x } := ⟨_, rfl⟩
    have hact : moveElement n x { s with psr := id s.psr } = .ok (true, u) := by
      change moveElement n x s = _
      rw [moveElement, State.memWrite_never x hcut hc, hu]
      rfl
    obtain ⟨hr0, hr1, hr2, hregs⟩ := elementDone_regs u o n true
    obtain ⟨hmem, hc', hpsr, hpc, hfp, hst, hctl⟩ := elementDone_same u o n true
    have hcu : u.cut = .never := by rw [hu]; exact hcut
    refine ⟨u.elementDone o n true, ?_, ?_⟩
    · rw [exec_movs hn]
      exact run_stringShape_goes h0 h31 he hx hno hact
    · rw [State.memRead_never (hc'.trans hcu) hc, hmem]
      subst hu
      refine ⟨hr0, hr1, hr2, hregs, ?_, fun z hz => ?_, hfp, fun k _ => congrArg (flag · k) hpsr, hst, hctl, hpc⟩
      · rw [Memory.readLE_writeLE hw hin, Nat.mod_eq_of_lt hlt]
      · rw [hmem]
        exact Memory.read_writeLE_outside hw hin hz
  · obtain ⟨u, hu⟩ : ∃ u : State, u = { s with psr := cmpFlags (8 * n) x x (equalFlags s.psr) } := ⟨_, rfl⟩
    have hact : compareElement n x { s with psr := equalFlags s.psr } = .ok (true, u) := by
      have hread := memRead_congr (s := s) (t := { s with psr := equalFlags s.psr }) rfl rfl hy
      simp only [compareElement, hread, Res.ok_bind, decide_true, hu]
    obtain ⟨hr0, hr1, hr2, hregs⟩ := elementDone_regs u o n true
    obtain ⟨hmem, -, hpsr, hpc, hfp, hst, hctl⟩ := elementDone_same u o n true
    refine ⟨u.elementDone o n true, ?_, ?_⟩
    · rw [exec_cmps hn]
      exact run_stringShape_goes h0 h31 he hx hno hact
    · subst hu
      refine ⟨hr0, hr1, hr2, hregs, fun z => by rw [hmem], hfp, ?_, fun k hk => ?_, hst, hctl, hpc⟩
      · rw [hpsr]
        exact equalFlags_of_compared (compared_cmpFlags (by subst hn; cases tr <;> cases i <;> decide) x x _)
      · rw [State.flag, hpsr, flag_cmpFlags hk, flag_equalFlags hk]
        rfl
  · obtain ⟨hr0, hr1, hr2, hregs⟩ := elementDone_regs s o n false
    obtain ⟨hmem, -, hpsr, hpc, hfp, hst, hctl⟩ := elementDone_same s o n false
    refine ⟨s.elementDone o n false, ?_, hr0, hr1, fun j hj => ?_, fun z => by rw [hmem], hfp,
      fun k _ => congrArg (flag · k) hpsr, hst, hctl, hpc⟩
    · rw [exec_skps hn]
      exact run_stringShape_goes h0 h31 he hx hno rfl
    · by_cases h2 : j = 2
      · subst h2
        exact hr2
      · exact hregs j (by simp only [List.mem_cons] at hj ⊢; tauto)

/-- Every String instruction is of the shape; CMPS starts with equality, the others with the flags there are. -/
theorem exec_string {i : IntLen} {o : StrOpt} {tr : Bool} {n : Nat} {ins : Instr} (hn : n = if tr then 1 else i.bytes)
    (hi : ins ∈ (if tr then [.movst o, .cmpst o, .skpst o] else [.movsi i o, .cmpsi i o, .skpsi i o])) (s : State) :
    ∃ two init act, exec ins s = s.run (stringShape ins n tr o two init act s) ∧
      (if ins = .cmpst o ∨ ins = .cmpsi i o then init = equalFlags ∧ act = compareElement n else init = id) := by
  subst hn
  cases tr with
  | true =>
    simp only [if_true, List.mem_cons, List.not_mem_nil, or_false] at hi
    obtain rfl | rfl | rfl := hi
    · exact ⟨true, id, moveElement 1, rfl, by simp⟩
    · exact ⟨true, equalFlags, compareElement 1, rfl, by simp⟩
    · exact ⟨false, id, skipElement, rfl, by simp⟩
  | false =>
    simp only [Bool.false_eq_true, if_false, List.mem_cons, List.not_mem_nil, or_false] at hi
    obtain rfl | rfl | rfl := hi
    · exact ⟨true, id, moveElement i.bytes, rfl, by simp⟩
    · exact ⟨true, equalFlags, compareElement i.bytes, rfl, by simp⟩
    · exact ⟨false, id, skipElement, rfl, by simp⟩

/-- Settles O38: the shape ends at each of its branches, with the flags its first step gave or CMPS compared. -/
theorem stringEnd : Obligations.StringEnd := by
  intro i o tr n ins s hn hi
  obtain ⟨two, init, act, hexec, hinit⟩ := exec_string hn hi s
  obtain ⟨u, hu⟩ : ∃ u : State, u = { s with psr := init s.psr } := ⟨_, rfl⟩
  have hends (f : Bool) : (u.terminate ins f).flag .f = f ∧ SameData s (u.terminate ins f) ∧
      NextSequential ins s (u.terminate ins f) ∧
      (if ins = .cmpst o ∨ ins = .cmpsi i o then
        EqualFlags (u.terminate ins f).psr ∧ SameFlags [.f, .z, .n, .l] s (u.terminate ins f)
      else SameFlags [.f] s (u.terminate ins f)) := by
    obtain ⟨hf, hdata, hnext, hflag⟩ := terminate_ends (f := f) hu ins
    refine ⟨hf, hdata, hnext, ?_⟩
    split at hinit
    · obtain ⟨rfl, -⟩ := hinit
      rw [if_pos ‹_›]
      refine ⟨(equalFlags_equal s.psr).congr fun k hk => hflag k (fun h => by subst h; simp at hk), fun k hk => ?_⟩
      simp only [List.mem_cons, List.not_mem_nil, or_false, not_or] at hk
      exact (hflag k hk.1).trans (flag_equalFlags (by simp [hk]))
    · subst hinit
      rw [if_neg ‹_›]
      exact fun k hk => hflag k (fun h => hk (by simp [h]))
  refine ⟨fun h0 => ⟨u.terminate ins false, ?_, hends false⟩,
    fun e x h0 h31 he hx hm => ⟨u.terminate ins true, ?_, hends true⟩, fun e x y hcmp h0 h31 he hx hno hy hne => ?_,
    fun h31 => ?_⟩
  · rw [hexec, stringShape_zero h0, hu]
    exact run_ok _ _
  · rw [hexec, stringShape_element h0 h31 he hx, if_pos (stringMatch_iff.2 hm), hu]
    exact run_ok _ _
  · rw [if_pos hcmp] at hinit
    obtain ⟨rfl, rfl⟩ := hinit
    obtain ⟨v, hv⟩ : ∃ v : State, v = { s with psr := cmpFlags (8 * n) x y (equalFlags s.psr) } := ⟨_, rfl⟩
    obtain ⟨hf, hdata, hnext, hflag⟩ := terminate_ends (f := false) hv ins
    have hact : compareElement n x { s with psr := equalFlags s.psr } = .ok (false, v) := by
      have hread := memRead_congr (s := s) (t := { s with psr := equalFlags s.psr }) rfl rfl hy
      simp only [compareElement, hread, Res.ok_bind, hne, decide_false, hv]
    refine ⟨v.terminate ins false, ?_, ?_, hf, fun k hk => ?_, hdata, hnext⟩
    · rw [hexec, stringShape_element h0 h31 he hx, if_neg (fun h => hno (stringMatch_iff.1 h)), hact, Res.ok_bind,
        if_neg Bool.false_ne_true]
      exact run_ok _ _
    · have hpos : 0 < 8 * n := by subst hn; cases tr <;> cases i <;> decide
      exact (compared_cmpFlags hpos x y (equalFlags s.psr)).congr fun k hk => hflag k (fun h => by subst h; simp at hk)
    · simp only [List.mem_cons, List.not_mem_nil, or_false, not_or] at hk
      obtain ⟨hkf, hk⟩ := hk
      rw [hflag k hkf, flag_cmpFlags (by simp [hk]), flag_equalFlags (by simp [hk])]
      rfl
  · rw [hexec, stringShape_negative h31]
    rfl

end Sys2Proof.Machine
end

section
/-! PROOFS. Floating-point formats (42_floating_point.md section 1): the fields of a pattern, the number it stands for,
and the numbers next to each other. -/
namespace Sys2Proof.Machine

/-! ## The model's formats are those of the claims -/

theorem fpPrec_eq (f : FpLen) : fpPrec f = fracBits f + 1 := by cases f <;> rfl

theorem fpBias_eq (f : FpLen) : (fpBias f : Int) = expBias f := by cases f <;> rfl

theorem fpExpBits_eq (f : FpLen) : fpExpBits f = expBits f := by cases f <;> rfl

theorem fpSignBit_eq (f : FpLen) : fpSignBit f = fracBits f + expBits f := by cases f <;> rfl

theorem pow_fpBytes (f : FpLen) : 256 ^ f.bytes = 2 ^ (fracBits f + expBits f + 1) := by cases f <;> rfl

theorem fracBits_pos (f : FpLen) : 0 < fracBits f := by cases f <;> decide

theorem pow_expBits (f : FpLen) : ((2 ^ expBits f : Nat) : Int) = 2 * expBias f + 2 := by cases f <;> rfl

theorem expBias_pos (f : FpLen) : 127 ≤ expBias f := by cases f <;> decide

theorem fpBytes_cases (f : FpLen) : f.bytes = 4 ∨ f.bytes = 8 := by cases f <;> decide

/-! ## Signs -/

/-- The factor of a sign. -/
def signOf (neg : Bool) : ℚ := if neg then -1 else 1

theorem abs_signOf_mul (neg : Bool) (x : ℚ) : |signOf neg * x| = |x| := by cases neg <;> simp [signOf]

theorem signOf_mul_self (neg : Bool) : signOf neg * signOf neg = 1 := by cases neg <;> norm_num [signOf]

theorem signOf_bne (a b : Bool) : signOf (a != b) = signOf a * signOf b := by cases a <;> cases b <;> norm_num [signOf]

theorem signOf_not (a : Bool) : signOf (!a) = -signOf a := by cases a <;> norm_num [signOf]

/-- A number times its sign. -/
theorem signOf_mul_abs (x : ℚ) : signOf (decide (x < 0)) * |x| = x := by
  by_cases h : x < 0
  · rw [decide_eq_true h, abs_of_neg h]
    simp [signOf]
  · rw [decide_eq_false h, abs_of_nonneg (not_lt.1 h)]
    simp [signOf]

theorem signOf_mul_neg_iff {neg : Bool} {x : ℚ} (hx : 0 < x) : signOf neg * x < 0 ↔ neg = true := by
  cases neg
  · simp [signOf, hx.le]
  · simp [signOf, hx]

/-! ## Fields -/

theorem negative_eq (f : FpLen) (v : Nat) : negative f v = fpSign f v := by
  rw [negative, fpSign, fpSignBit_eq, Nat.testBit_eq_decide_div_mod_eq]

/-- The fields of a pattern put together. -/
theorem fields_of_pattern {f : FpLen} {E F : Nat} (neg : Bool) (hE : E < 2 ^ expBits f) (hF : F < 2 ^ fracBits f) :
    expField f (fpZero f neg + E * 2 ^ fracBits f + F) = E ∧ fracField f (fpZero f neg + E * 2 ^ fracBits f + F) = F ∧
      negative f (fpZero f neg + E * 2 ^ fracBits f + F) = neg ∧
      fpZero f neg + E * 2 ^ fracBits f + F < 256 ^ f.bytes ∧
      (fpZero f neg + E * 2 ^ fracBits f + F) % 2 = F % 2 := by
  obtain ⟨b, hb, hz⟩ : ∃ b : Nat, b = neg.toNat ∧
      fpZero f neg + E * 2 ^ fracBits f + F = (b * 2 ^ expBits f + E) * 2 ^ fracBits f + F := by
    refine ⟨neg.toNat, rfl, ?_⟩
    rw [fpZero, fpSignBit_eq, Nat.pow_add]
    cases neg <;> simp [Nat.add_mul, Nat.mul_comm]
  have hb1 : b ≤ 1 := by cases neg <;> simp [hb]
  have hdiv : ((b * 2 ^ expBits f + E) * 2 ^ fracBits f + F) / 2 ^ fracBits f = b * 2 ^ expBits f + E := by
    rw [Nat.mul_comm, Nat.mul_add_div (Nat.two_pow_pos _), Nat.div_eq_of_lt hF, Nat.add_zero]
  have htop : (b * 2 ^ expBits f + E) / 2 ^ expBits f = b := by
    rw [Nat.mul_comm, Nat.mul_add_div (Nat.two_pow_pos _), Nat.div_eq_of_lt hE, Nat.add_zero]
  rw [hz]
  refine ⟨?_, ?_, ?_, ?_, ?_⟩
  · rw [expField, hdiv, Nat.mul_comm, Nat.mul_add_mod, Nat.mod_eq_of_lt hE]
  · rw [fracField, Nat.mul_comm, Nat.mul_add_mod, Nat.mod_eq_of_lt hF]
  · rw [negative_eq, fpSign, fpSignBit_eq, Nat.pow_add, ← Nat.div_div_eq_div_mul, hdiv, htop, hb]
    cases neg <;> rfl
  · rw [pow_fpBytes, Nat.pow_succ, Nat.pow_add]
    have h1 : b * 2 ^ expBits f ≤ 2 ^ expBits f := by nlinarith [Nat.two_pow_pos (expBits f)]
    have h2 : (b * 2 ^ expBits f + E + 1) * 2 ^ fracBits f ≤ (2 * 2 ^ expBits f) * 2 ^ fracBits f :=
      Nat.mul_le_mul_right _ (by omega)
    calc (b * 2 ^ expBits f + E) * 2 ^ fracBits f + F < (b * 2 ^ expBits f + E + 1) * 2 ^ fracBits f := by
          rw [Nat.add_mul _ 1, Nat.one_mul]; omega
      _ ≤ (2 * 2 ^ expBits f) * 2 ^ fracBits f := h2
      _ = 2 ^ fracBits f * 2 ^ expBits f * 2 := by ring
  · obtain ⟨k, hk⟩ : ∃ k, fracBits f = k + 1 := ⟨fracBits f - 1, by have := fracBits_pos f; omega⟩
    rw [hk, Nat.pow_succ, ← Nat.mul_assoc, Nat.mul_add_mod_self_right]

/-- The number of a pattern with a normal exponent: a significand times the unit of its binade (R252, R253). -/
theorem fpNumber_normal {f : FpLen} {v : Nat} (hE : expField f v ≠ 0) :
    fpNumber f v = signOf (negative f v) * (((2 ^ fracBits f + fracField f v : Nat) : ℚ) *
      2 ^ ((expField f v : Int) - expBias f - fracBits f)) := by
  have hpow : (2 : ℚ) ^ ((expField f v : Int) - expBias f - fracBits f) * 2 ^ fracBits f =
      2 ^ ((expField f v : Int) - expBias f) := by
    rw [zpow_sub₀ two_ne_zero ((expField f v : Int) - expBias f), zpow_natCast, div_mul_cancel₀ _ (by positivity)]
  have hp : ((2 : ℚ) ^ fracBits f) ≠ 0 := by positivity
  rw [fpNumber, if_neg hE, ← hpow, signOf]
  push_cast
  field_simp

theorem fpNumber_zero {f : FpLen} {v : Nat} (hE : expField f v = 0) : fpNumber f v = 0 := if_pos hE

/-- A packed number: what its fields are and what it stands for. -/
theorem fpPack_spec {f : FpLen} {ex : Int} {q : Nat} (neg : Bool) (hlo : 2 ^ fracBits f ≤ q) (hhi : q < 2 ^ (fracBits f + 1))
    (hemin : 1 - expBias f ≤ ex) (hemax : ex ≤ expBias f) :
    fpPack f neg ex q < 256 ^ f.bytes ∧ ¬ Reserved f (fpPack f neg ex q) ∧ expField f (fpPack f neg ex q) ≠ 0 ∧
      negative f (fpPack f neg ex q) = neg ∧
      fpNumber f (fpPack f neg ex q) = signOf neg * (q * 2 ^ (ex - fracBits f)) ∧
      fpPack f neg ex q % 2 = q % 2 := by
  have hbits := pow_expBits f
  have hF : q - 2 ^ fracBits f < 2 ^ fracBits f := by rw [Nat.pow_succ] at hhi; omega
  have hcast : (((ex + expBias f).toNat : Nat) : Int) = ex + expBias f := Int.toNat_of_nonneg (by omega)
  have hE : (ex + expBias f).toNat < 2 ^ expBits f := by omega
  have hpack : fpPack f neg ex q = fpZero f neg + (ex + expBias f).toNat * 2 ^ fracBits f + (q - 2 ^ fracBits f) := by
    rw [fpPack, fpPrec_eq, fpBias_eq, Nat.add_sub_cancel]
  obtain ⟨hexp, hfrac, hneg, hlt, hpar⟩ := fields_of_pattern neg hE hF
  rw [← hpack] at hexp hfrac hneg hlt hpar
  have hne : expField f (fpPack f neg ex q) ≠ 0 := by rw [hexp]; omega
  refine ⟨hlt, ?_, hne, hneg, ?_, ?_⟩
  · rintro (h | ⟨h, -⟩)
    · rw [hexp] at h
      have : (2 ^ expBits f : Nat) ≥ 1 := Nat.one_le_two_pow
      omega
    · exact hne h
  · rw [fpNumber_normal hne, hneg, hexp, hfrac, hcast, Nat.add_sub_cancel' hlo, Int.add_sub_cancel]
  · rw [hpar]
    obtain ⟨k, hk⟩ : ∃ k, fracBits f = k + 1 := ⟨fracBits f - 1, by have := fracBits_pos f; omega⟩
    rw [hk, Nat.pow_succ] at hlo ⊢
    omega

/-- A packed zero. -/
theorem fpZero_spec (f : FpLen) (neg : Bool) :
    fpZero f neg < 256 ^ f.bytes ∧ expField f (fpZero f neg) = 0 ∧ fracField f (fpZero f neg) = 0 ∧
      negative f (fpZero f neg) = neg := by
  obtain ⟨hexp, hfrac, hneg, hlt, -⟩ := fields_of_pattern (f := f) neg (Nat.two_pow_pos _) (Nat.two_pow_pos _)
  rw [Nat.zero_mul, Nat.add_zero] at hexp hfrac hneg hlt
  exact ⟨hlt, hexp, hfrac, hneg⟩

/-- A zero is a number. -/
theorem fpZero_valid (f : FpLen) (neg : Bool) : ¬ Reserved f (fpZero f neg) ∧ fpNumber f (fpZero f neg) = 0 := by
  obtain ⟨-, hexp, hfrac, -⟩ := fpZero_spec f neg
  refine ⟨?_, fpNumber_zero hexp⟩
  rintro (h | ⟨-, h⟩)
  · have := pow_expBits f
    have := expBias_pos f
    omega
  · exact h hfrac

/-! ## What a pattern unpacks to (R254) -/

theorem fpUnpack_reserved {f : FpLen} {v : Nat} : fpUnpack f v = .reserved ↔ Reserved f v := by
  rw [fpUnpack, Reserved, fpPrec_eq, Nat.add_sub_cancel, fpExpBits_eq, ← expField, ← fracField]
  have : 2 ≤ 2 ^ expBits f := by have := pow_expBits f; have := expBias_pos f; omega
  split
  · next h =>
    split
    · next h' => simp [h, h']; omega
    · next h' => simp [h, h']
  · next h =>
    split
    · next h' => simp [h']
    · next h' => simp [h, h']

theorem fpReserved_iff {f : FpLen} {v : Nat} : fpReserved f v = true ↔ Reserved f v := by
  rw [fpReserved, decide_eq_true_iff, fpUnpack_reserved]

/-- A pattern that is not reserved unpacks to a zero or to a significand and the exponent of its unit. -/
theorem fpUnpack_cases {f : FpLen} {v : Nat} (hv : ¬ Reserved f v) :
    (fpUnpack f v = .zero (negative f v) ∧ expField f v = 0 ∧ fpNumber f v = 0) ∨
    ∃ (m : Nat) (ex : Int), fpUnpack f v = .num (negative f v) m (ex - fracBits f) ∧ 2 ^ fracBits f ≤ m ∧
      m < 2 ^ (fracBits f + 1) ∧ 1 - expBias f ≤ ex ∧ ex ≤ expBias f ∧
      fpNumber f v = signOf (negative f v) * (m * 2 ^ (ex - fracBits f)) := by
  have hun : fpUnpack f v = if expField f v = 0 then (if fracField f v = 0 then .zero (negative f v) else .reserved)
      else if expField f v = 2 ^ expBits f - 1 then .reserved
      else .num (negative f v) (2 ^ fracBits f + fracField f v) ((expField f v : Int) - expBias f - fracBits f) := by
    rw [fpUnpack, fpPrec_eq, Nat.add_sub_cancel, fpExpBits_eq, fpBias_eq, negative_eq]
    rfl
  simp only [Reserved, not_or, not_and, not_not] at hv
  obtain ⟨hmax, hfrac⟩ := hv
  by_cases h0 : expField f v = 0
  · refine .inl ⟨?_, h0, fpNumber_zero h0⟩
    rw [hun, if_pos h0, if_pos (hfrac h0)]
  · have hlt : expField f v < 2 ^ expBits f := Nat.mod_lt _ (Nat.two_pow_pos _)
    have hfl : fracField f v < 2 ^ fracBits f := Nat.mod_lt _ (Nat.two_pow_pos _)
    have hbits := pow_expBits f
    refine .inr ⟨2 ^ fracBits f + fracField f v, (expField f v : Int) - expBias f, ?_, by omega,
      by rw [Nat.pow_succ]; omega, by omega, by omega, fpNumber_normal h0⟩
    rw [hun, if_neg h0, if_neg hmax]

end Sys2Proof.Machine
end

section
/-! PROOFS. Rounding (42_floating_point.md R255): between two neighbours of one binade there is no other number, so each
mode's neighbour is the rounded number among all numbers of the format. -/
namespace Sys2Proof.Machine

/-- The unit of the last place in the binade of exponent `ex`. -/
def ulp (f : FpLen) (ex : Int) : ℚ := 2 ^ (ex - fracBits f)

theorem ulp_pos (f : FpLen) (ex : Int) : 0 < ulp f ex := zpow_pos two_pos _

/-- A binade begins at 2^w units of it. -/
theorem pow_mul_ulp (f : FpLen) (ex : Int) : (2 : ℚ) ^ fracBits f * ulp f ex = 2 ^ ex := by
  rw [ulp, zpow_sub₀ two_ne_zero, zpow_natCast, mul_div_cancel₀ _ (by positivity)]

theorem ulp_add (f : FpLen) (ex : Int) (k : Nat) : ulp f (ex + k) = 2 ^ k * ulp f ex := by
  rw [ulp, ulp, show ex + k - (fracBits f : Int) = (ex - fracBits f) + k by ring, zpow_add₀ two_ne_zero, zpow_natCast,
    mul_comm]

/-- No number of the format lies strictly between q and q + 1 units of a binade. -/
theorem fpNumber_gap {f : FpLen} {p q : Nat} {ex : Int} (hp : ¬ Reserved f p) (hlo : 2 ^ fracBits f ≤ q) :
    |fpNumber f p| ≤ q * ulp f ex ∨ (q + 1 : ℚ) * ulp f ex ≤ |fpNumber f p| := by
  have hu := ulp_pos f ex
  obtain ⟨-, -, h0⟩ | ⟨m, e, -, -, hm, -, -, hnum⟩ := fpUnpack_cases hp
  · left
    rw [h0, abs_zero]
    positivity
  · have habs : |fpNumber f p| = m * ulp f e := by
      rw [hnum, abs_signOf_mul, abs_of_nonneg (by positivity), ulp]
    rw [habs]
    by_cases hle : e < ex
    · left
      calc (m : ℚ) * ulp f e ≤ 2 ^ (fracBits f + 1) * ulp f e := by
            have : (m : ℚ) ≤ 2 ^ (fracBits f + 1) := by exact_mod_cast hm.le
            exact mul_le_mul_of_nonneg_right this (ulp_pos f e).le
        _ = 2 ^ (e + 1) := by
            rw [pow_succ, mul_comm _ (2 : ℚ), mul_assoc, pow_mul_ulp, zpow_add₀ two_ne_zero, zpow_one, mul_comm]
        _ ≤ 2 ^ ex := zpow_le_zpow_right₀ one_le_two (by omega)
        _ = 2 ^ fracBits f * ulp f ex := (pow_mul_ulp f ex).symm
        _ ≤ q * ulp f ex := by
            have : (2 : ℚ) ^ fracBits f ≤ q := by exact_mod_cast hlo
            exact mul_le_mul_of_nonneg_right this hu.le
    · obtain ⟨k, rfl⟩ : ∃ k : Nat, e = ex + k := ⟨(e - ex).toNat, by omega⟩
      rw [ulp_add, ← mul_assoc]
      have hint : m * 2 ^ k ≤ q ∨ q + 1 ≤ m * 2 ^ k := by omega
      refine hint.imp (fun h => mul_le_mul_of_nonneg_right ?_ hu.le) fun h => mul_le_mul_of_nonneg_right ?_ hu.le
      · exact_mod_cast h
      · exact_mod_cast h

/-- An amount of units in the middle of q and q + 1, and the neighbour a mode gives for it. -/
structure Neighbour (f : FpLen) (mode : Nat) (neg : Bool) (x : ℚ) (q r d q1 : Nat) (ex : Int) (p : Nat) : Prop where
  normal : 2 ^ fracBits f ≤ q
  part : r < d
  exact : x = signOf neg * ((q + (r : ℚ) / d) * ulp f ex)
  chosen : q1 = if roundUp mode neg q r d then q + 1 else q
  short : p < 256 ^ f.bytes
  valid : ¬ Reserved f p
  number : fpNumber f p = signOf neg * (q1 * ulp f ex)
  parity : p % 2 = q1 % 2

namespace Neighbour
variable {f : FpLen} {mode q r d q1 p : Nat} {neg : Bool} {x : ℚ} {ex : Int}

theorem part_nonneg (_h : Neighbour f mode neg x q r d q1 ex p) : 0 ≤ (r : ℚ) / d := by positivity

theorem part_lt (h : Neighbour f mode neg x q r d q1 ex p) : (r : ℚ) / d < 1 := by
  have hd : (0 : ℚ) < d := by exact_mod_cast (Nat.zero_le r).trans_lt h.part
  rw [div_lt_one hd]
  exact_mod_cast h.part

theorem q_pos (h : Neighbour f mode neg x q r d q1 ex p) : (1 : ℚ) ≤ q := by
  exact_mod_cast Nat.one_le_two_pow.trans h.normal

theorem abs_eq (h : Neighbour f mode neg x q r d q1 ex p) : |x| = (q + (r : ℚ) / d) * ulp f ex := by
  have := h.part_nonneg
  have := ulp_pos f ex
  rw [h.exact, abs_signOf_mul, abs_of_nonneg (by positivity)]

theorem abs_number (h : Neighbour f mode neg x q r d q1 ex p) : |fpNumber f p| = q1 * ulp f ex := by
  have := ulp_pos f ex
  rw [h.number, abs_signOf_mul, abs_of_nonneg (by positivity)]

theorem abs_pos (h : Neighbour f mode neg x q r d q1 ex p) : 0 < |x| := by
  have := h.part_nonneg
  have := h.q_pos
  have := ulp_pos f ex
  rw [h.abs_eq]
  positivity

theorem eq_signOf_abs (h : Neighbour f mode neg x q r d q1 ex p) : x = signOf neg * |x| := by
  rw [h.abs_eq]
  exact h.exact

theorem number_eq_signOf_abs (h : Neighbour f mode neg x q r d q1 ex p) : fpNumber f p = signOf neg * |fpNumber f p| := by
  rw [h.abs_number]
  exact h.number

/-- The neighbour below is the greatest magnitude at or below. -/
theorem toward (h : Neighbour f mode neg x q r d q1 ex p) (hq : q1 = q) :
    |fpNumber f p| ≤ |x| ∧ ∀ k, ¬ Reserved f k → |fpNumber f k| ≤ |x| → |fpNumber f k| ≤ |fpNumber f p| := by
  have hu := ulp_pos f ex
  have ht := h.part_nonneg
  have ht1 := h.part_lt
  rw [h.abs_eq, h.abs_number, hq]
  refine ⟨mul_le_mul_of_nonneg_right (by linarith) hu.le, fun k hk hle => ?_⟩
  obtain hgap | hgap := fpNumber_gap (ex := ex) hk h.normal
  · exact hgap
  · have : ((q : ℚ) + (r : ℚ) / d) * ulp f ex < (q + 1) * ulp f ex := mul_lt_mul_of_pos_right (by linarith) hu
    linarith

/-- The neighbour above, or the number itself, is the least magnitude at or above. -/
theorem away (h : Neighbour f mode neg x q r d q1 ex p) (hq : q1 = if r ≠ 0 then q + 1 else q) :
    |x| ≤ |fpNumber f p| ∧ ∀ k, ¬ Reserved f k → |x| ≤ |fpNumber f k| → |fpNumber f p| ≤ |fpNumber f k| := by
  have hu := ulp_pos f ex
  have ht1 := h.part_lt
  rw [h.abs_eq, h.abs_number, hq]
  by_cases hr : r = 0
  · rw [if_neg (not_not.2 hr), hr, Nat.cast_zero, zero_div, add_zero]
    exact ⟨le_rfl, fun k _ hle => hle⟩
  · rw [if_pos hr, Nat.cast_add, Nat.cast_one]
    refine ⟨mul_le_mul_of_nonneg_right (by linarith) hu.le, fun k hk hle => ?_⟩
    have hpos : 0 < (r : ℚ) / d := by
      have : 0 < r := Nat.pos_of_ne_zero hr
      have : 0 < d := this.trans h.part
      positivity
    obtain hgap | hgap := fpNumber_gap (ex := ex) hk h.normal
    · have : (q : ℚ) * ulp f ex < (q + (r : ℚ) / d) * ulp f ex := mul_lt_mul_of_pos_right (by linarith) hu
      linarith
    · exact hgap

end Neighbour

/-- Distances in units: an amount between q and q + 1 that is within half a unit of q1 is no farther from q1 than from
anything outside the two, and as far only from the middle. -/
theorem nearest_of_gap {q q1 t z : ℚ} {neg : Bool} (hq : 1 ≤ q) (h0 : 0 ≤ t) (h1 : t < 1) (hz : |z| ≤ q ∨ q + 1 ≤ |z|)
    (hq1 : (q1 = q ∧ 2 * t ≤ 1) ∨ (q1 = q + 1 ∧ 1 ≤ 2 * t)) :
    |signOf neg * (q + t) - signOf neg * q1| ≤ |signOf neg * (q + t) - z| ∧
      (|signOf neg * (q + t) - signOf neg * q1| = |signOf neg * (q + t) - z| → signOf neg * q1 ≠ z → 2 * t = 1) := by
  obtain ⟨y, hy, hzy⟩ : ∃ y, z = signOf neg * y ∧ |z| = |y| :=
    ⟨signOf neg * z, by rw [← mul_assoc, signOf_mul_self, one_mul], (abs_signOf_mul ..).symm⟩
  rw [hzy] at hz
  rw [hy, ← mul_sub, ← mul_sub, abs_signOf_mul, abs_signOf_mul]
  have hne : signOf neg * q1 ≠ signOf neg * y → q1 ≠ y := fun h e => h (by rw [e])
  suffices |q + t - q1| ≤ |q + t - y| ∧ (|q + t - q1| = |q + t - y| → q1 ≠ y → 2 * t = 1) from
    ⟨this.1, fun h h' => this.2 h (hne h')⟩
  have hy' : y ≤ q ∨ q + 1 ≤ y := by
    obtain h | h := hz
    · exact .inl (le_of_abs_le h)
    · obtain ⟨he, -⟩ | ⟨he, hy⟩ := abs_cases y
      · exact .inr (he ▸ h)
      · exact .inl (by linarith)
  obtain ⟨rfl, ht⟩ | ⟨rfl, ht⟩ := hq1 <;> obtain hle | hge := hy'
  · rw [abs_of_nonneg (by linarith : 0 ≤ q1 + t - q1), abs_of_nonneg (by linarith : 0 ≤ q1 + t - y)]
    exact ⟨by linarith, fun h hn => absurd (by linarith) hn⟩
  · rw [abs_of_nonneg (by linarith : 0 ≤ q1 + t - q1), abs_of_nonpos (by linarith : q1 + t - y ≤ 0)]
    exact ⟨by linarith, fun h _ => by linarith⟩
  · rw [abs_of_nonpos (by linarith : q + t - (q + 1) ≤ 0), abs_of_nonneg (by linarith : 0 ≤ q + t - y)]
    exact ⟨by linarith, fun h _ => by linarith⟩
  · rw [abs_of_nonpos (by linarith : q + t - (q + 1) ≤ 0), abs_of_nonpos (by linarith : q + t - y ≤ 0)]
    exact ⟨by linarith, fun h hn => absurd (by linarith) hn⟩

/-- Nearest rounding takes the nearer neighbour, and the even one from the middle (R57). -/
theorem roundUp_nearest {neg : Bool} {q r d : Nat} (hrd : r < d) :
    let q1 := if roundUp 0 neg q r d then q + 1 else q
    (((q1 : ℚ) = q ∧ 2 * ((r : ℚ) / d) ≤ 1) ∨ ((q1 : ℚ) = q + 1 ∧ 1 ≤ 2 * ((r : ℚ) / d))) ∧
      (2 * ((r : ℚ) / d) = 1 → q1 % 2 = 0) := by
  have hd : (0 : ℚ) < d := by exact_mod_cast (Nat.zero_le r).trans_lt hrd
  have hhalf : 2 * ((r : ℚ) / d) = ((2 * r : Nat) : ℚ) / d := by push_cast; ring
  rw [hhalf, div_le_one hd, one_le_div hd, div_eq_one_iff_eq hd.ne', Nat.cast_le, Nat.cast_le, Nat.cast_inj]
  dsimp only
  by_cases hup : roundUp 0 neg q r d = true
  · rw [if_pos hup]
    simp only [roundUp, Bool.or_eq_true, Bool.and_eq_true, decide_eq_true_eq] at hup
    exact ⟨.inr ⟨by push_cast; rfl, by omega⟩, by omega⟩
  · rw [if_neg hup]
    simp only [roundUp, Bool.or_eq_true, Bool.and_eq_true, decide_eq_true_eq, not_or, not_and] at hup
    exact ⟨.inl ⟨rfl, by omega⟩, by omega⟩

namespace Neighbour
variable {f : FpLen} {mode q r d q1 p : Nat} {neg : Bool} {x : ℚ} {ex : Int}

theorem rounds_nearest (h : Neighbour f 0 neg x q r d q1 ex p) : Rounds f 0 x p := by
  refine ⟨h.short, h.valid, fun k hk _ => ?_⟩
  have hu := ulp_pos f ex
  obtain ⟨hq1, htie⟩ := roundUp_nearest (neg := neg) (q := q) h.part
  rw [← h.chosen] at hq1 htie
  have hgap : |fpNumber f k / ulp f ex| ≤ q ∨ (q : ℚ) + 1 ≤ |fpNumber f k / ulp f ex| := by
    rw [abs_div, abs_of_pos hu, div_le_iff₀ hu, le_div_iff₀ hu]
    exact fpNumber_gap hk h.normal
  obtain ⟨hle, heq⟩ := nearest_of_gap (neg := neg) h.q_pos h.part_nonneg h.part_lt hgap hq1
  have hx : x - fpNumber f p = (signOf neg * (q + (r : ℚ) / d) - signOf neg * q1) * ulp f ex := by
    rw [h.exact, h.number]; ring
  have hk' : x - fpNumber f k = (signOf neg * (q + (r : ℚ) / d) - fpNumber f k / ulp f ex) * ulp f ex := by
    rw [h.exact, sub_mul, div_mul_cancel₀ _ hu.ne']; ring
  rw [hx, hk', abs_mul, abs_mul, abs_of_pos hu, mul_le_mul_iff_left₀ hu, mul_left_inj' hu.ne']
  refine ⟨hle, fun he hne => h.parity.trans (htie (heq he fun hc => hne ?_))⟩
  rw [h.number, ← mul_assoc, hc, div_mul_cancel₀ _ hu.ne']

theorem rounds_zero (h : Neighbour f 1 neg x q r d q1 ex p) : Rounds f 1 x p := by
  obtain ⟨hle, hmax⟩ := h.toward h.chosen
  refine ⟨h.short, h.valid, hle, ?_, fun k hk _ => hmax k hk⟩
  rw [h.number_eq_signOf_abs, h.eq_signOf_abs, mul_mul_mul_comm, signOf_mul_self, one_mul]
  positivity

/-- Rounding upward is away from zero for a positive number, toward zero for a negative one. -/
theorem rounds_up (h : Neighbour f 2 neg x q r d q1 ex p) : Rounds f 2 x p := by
  have hx := h.eq_signOf_abs
  have hp := h.number_eq_signOf_abs
  have hpos := h.abs_pos
  refine ⟨h.short, h.valid, ?_⟩
  cases neg with
  | false =>
    obtain ⟨hle, hmin⟩ := h.away (by rw [h.chosen]; simp [roundUp])
    simp only [signOf, Bool.false_eq_true, if_false, one_mul] at hx hp
    refine ⟨by linarith, fun k hk _ hk' => ?_⟩
    have := hmin k hk (by rw [abs_of_pos (a := fpNumber f k) (by linarith)]; linarith)
    rw [abs_of_pos (a := fpNumber f k) (by linarith)] at this
    linarith
  | true =>
    obtain ⟨hle, hmax⟩ := h.toward (by rw [h.chosen]; simp [roundUp])
    simp only [signOf, if_true, neg_mul, one_mul] at hx hp
    refine ⟨by linarith, fun k hk _ hk' => ?_⟩
    obtain ⟨hs, ha⟩ | ⟨hs, ha⟩ := abs_cases (fpNumber f k)
    · have := abs_nonneg (fpNumber f p); linarith
    · have := hmax k hk (by linarith); linarith

/-- Rounding downward is toward zero for a positive number, away from zero for a negative one. -/
theorem rounds_down (hmode : 3 ≤ mode) (h : Neighbour f mode neg x q r d q1 ex p) : Rounds f mode x p := by
  have hx := h.eq_signOf_abs
  have hp := h.number_eq_signOf_abs
  have hpos := h.abs_pos
  obtain ⟨m, rfl⟩ : ∃ m, mode = m + 3 := ⟨mode - 3, by omega⟩
  refine ⟨h.short, h.valid, ?_⟩
  show fpNumber f p ≤ x ∧ _
  cases neg with
  | false =>
    obtain ⟨hle, hmax⟩ := h.toward (by rw [h.chosen]; simp [roundUp])
    simp only [signOf, Bool.false_eq_true, if_false, one_mul] at hx hp
    refine ⟨by linarith, fun k hk _ hk' => ?_⟩
    obtain ⟨hs, ha⟩ | ⟨hs, ha⟩ := abs_cases (fpNumber f k)
    · have := hmax k hk (by linarith); linarith
    · have := abs_nonneg (fpNumber f p); linarith
  | true =>
    obtain ⟨hle, hmin⟩ := h.away (by rw [h.chosen]; simp [roundUp])
    simp only [signOf, if_true, neg_mul, one_mul] at hx hp
    refine ⟨by linarith, fun k hk _ hk' => ?_⟩
    have := hmin k hk (by rw [abs_of_neg (a := fpNumber f k) (by linarith)]; linarith)
    rw [abs_of_neg (a := fpNumber f k) (by linarith)] at this
    linarith

/-- The neighbour a mode chooses is the number rounded by that mode (R255). -/
theorem rounds (h : Neighbour f mode neg x q r d q1 ex p) : Rounds f mode x p := by
  match mode, h with
  | 0, h => exact h.rounds_nearest
  | 1, h => exact h.rounds_zero
  | 2, h => exact h.rounds_up
  | m + 3, h => exact h.rounds_down (by omega)

/-- The neighbour is the number itself exactly where nothing is left over, and elsewhere no pattern stands for it. -/
theorem exact_of_part (h : Neighbour f mode neg x q r d q1 ex p) (hr : r = 0) : fpNumber f p = x := by
  have hq : q1 = q := by
    rw [h.chosen, if_neg]
    subst hr
    have := h.part
    match mode with
    | 0 => simp [roundUp]; omega
    | 1 => simp [roundUp]
    | 2 => simp [roundUp]
    | m + 3 => simp [roundUp]
  rw [h.number, h.exact, hq, hr, Nat.cast_zero, zero_div, add_zero]

theorem inexact_of_part (h : Neighbour f mode neg x q r d q1 ex p) (hr : r ≠ 0) (k : Nat) (hk : ¬ Reserved f k) :
    fpNumber f k ≠ x := by
  intro he
  have hu := ulp_pos f ex
  have ht1 := h.part_lt
  have hpos : 0 < (r : ℚ) / d := by
    have : 0 < r := Nat.pos_of_ne_zero hr
    have : 0 < d := this.trans h.part
    positivity
  have hgap := fpNumber_gap (ex := ex) hk h.normal
  rw [he, h.abs_eq, mul_le_mul_iff_left₀ hu, mul_le_mul_iff_left₀ hu] at hgap
  obtain hgap | hgap := hgap <;> linarith

end Neighbour

end Sys2Proof.Machine
end

section
/-! PROOFS. The delivery of an exact number (42_floating_point.md R264): underflow, overflow, or the number rounded. -/
namespace Sys2Proof.Machine

/-! ## Scaling fractions -/

theorem scaleFrac_spec {n d : Nat} (j : Int) (hd : 0 < d) :
    0 < (scaleFrac n d j).2 ∧ ((scaleFrac n d j).1 : ℚ) / (scaleFrac n d j).2 = n / d * 2 ^ j := by
  rw [scaleFrac]
  split
  · next h =>
    obtain ⟨k, rfl⟩ : ∃ k : Nat, j = k := ⟨j.toNat, (Int.toNat_of_nonneg h).symm⟩
    rw [Int.toNat_natCast, zpow_natCast]
    refine ⟨hd, ?_⟩
    push_cast
    ring
  · next h =>
    obtain ⟨k, rfl⟩ : ∃ k : Nat, j = -k := ⟨(-j).toNat, by omega⟩
    rw [Int.neg_neg, Int.toNat_natCast, zpow_neg, zpow_natCast]
    refine ⟨Nat.mul_pos hd (Nat.two_pow_pos _), ?_⟩
    push_cast
    rw [div_mul_eq_div_div]
    rfl

/-- Division with remainder, as rationals. -/
theorem div_eq_quot_add {a b : Nat} (hb : 0 < b) : (a : ℚ) / b = (a / b : Nat) + ((a % b : Nat) : ℚ) / b := by
  have h : (b : ℚ) ≠ 0 := by exact_mod_cast hb.ne'
  rw [div_eq_iff h, add_mul, div_mul_cancel₀ _ h]
  exact_mod_cast (Nat.div_add_mod' a b).symm

/-- The exponent of a positive fraction. -/
theorem fracExp_spec {n d : Nat} (hn : 0 < n) (hd : 0 < d) :
    (2 : ℚ) ^ fracExp n d ≤ n / d ∧ (n : ℚ) / d < 2 ^ (fracExp n d + 1) := by
  have hdq : (0 : ℚ) < d := by exact_mod_cast hd
  have hn1 : (2 : ℚ) ^ Nat.log2 n ≤ n := by exact_mod_cast Nat.log2_self_le hn.ne'
  have hn2 : (n : ℚ) < 2 ^ (Nat.log2 n + 1) := by exact_mod_cast Nat.lt_log2_self
  have hd1 : (2 : ℚ) ^ Nat.log2 d ≤ d := by exact_mod_cast Nat.log2_self_le hd.ne'
  have hd2 : (d : ℚ) < 2 ^ (Nat.log2 d + 1) := by exact_mod_cast Nat.lt_log2_self
  obtain ⟨t, ht⟩ : ∃ t : Int, t = (Nat.log2 n : Int) - Nat.log2 d := ⟨_, rfl⟩
  have hpow : (2 : ℚ) ^ Nat.log2 n = 2 ^ t * 2 ^ Nat.log2 d := by
    rw [← zpow_natCast, ← zpow_natCast, ← zpow_add₀ two_ne_zero, ht, Int.sub_add_cancel]
  have hpos : (0 : ℚ) < 2 ^ t := zpow_pos two_pos _
  have hlow : (2 : ℚ) ^ (t - 1) ≤ n / d := by
    rw [le_div_iff₀ hdq, zpow_sub₀ two_ne_zero, zpow_one]
    rw [pow_succ] at hd2
    nlinarith
  have hhigh : (n : ℚ) / d < 2 ^ (t + 1) := by
    rw [div_lt_iff₀ hdq, zpow_add₀ two_ne_zero, zpow_one]
    rw [pow_succ] at hn2
    nlinarith
  obtain ⟨hb, hab⟩ := scaleFrac_spec (n := n) (-t) hd
  have hcmp : (scaleFrac n d (-t)).1 < (scaleFrac n d (-t)).2 ↔ (n : ℚ) / d < 2 ^ t := by
    have hbq : (0 : ℚ) < (scaleFrac n d (-t)).2 := by exact_mod_cast hb
    rw [← Nat.cast_lt (α := ℚ), ← div_lt_one hbq, hab, zpow_neg, ← div_eq_mul_inv, div_lt_one hpos]
  have he : fracExp n d = if (scaleFrac n d (-t)).1 < (scaleFrac n d (-t)).2 then t - 1 else t := by
    rw [ht]; rfl
  rw [he]
  split
  · next h => exact ⟨hlow, by rw [Int.sub_add_cancel]; exact hcmp.1 h⟩
  · next h => exact ⟨not_lt.1 (mt hcmp.2 h), hhigh⟩

/-! ## The parts of a delivery -/

/-- A significand that rounding took to the next power of two moves to the next binade. -/
def carried (f : FpLen) (ex : Int) (q : Nat) : Int × Nat :=
  if q = 2 ^ (fracBits f + 1) then (ex + 1, 2 ^ fracBits f) else (ex, q)

theorem carried_spec {f : FpLen} {ex : Int} {q : Nat} (hlo : 2 ^ fracBits f ≤ q) (hhi : q ≤ 2 ^ (fracBits f + 1)) :
    2 ^ fracBits f ≤ (carried f ex q).2 ∧ (carried f ex q).2 < 2 ^ (fracBits f + 1) ∧
      ((carried f ex q).2 : ℚ) * ulp f (carried f ex q).1 = q * ulp f ex ∧ (carried f ex q).2 % 2 = q % 2 ∧
      ex ≤ (carried f ex q).1 := by
  rw [carried]
  split
  · next h =>
    obtain ⟨k, hk⟩ : ∃ k, fracBits f = k + 1 := ⟨fracBits f - 1, by have := fracBits_pos f; omega⟩
    refine ⟨le_rfl, Nat.pow_lt_pow_right (by decide) (by omega), ?_, ?_, by omega⟩
    · have hu : ulp f (ex + 1) = 2 * ulp f ex := by have := ulp_add f ex 1; rwa [Nat.cast_one, pow_one] at this
      rw [hu, h]
      push_cast
      ring
    · rw [h, hk, Nat.pow_succ, Nat.pow_succ]
      omega
  · exact ⟨hlo, by omega, rfl, rfl, le_rfl⟩

/-- What is delivered for q + r/d units of the binade of `ex` (R264). -/
def deliverUnits (f : FpLen) (neg : Bool) (q r d : Nat) (ex : Int) (fsr : Dword) : FpOut :=
  let c := carried f ex (if roundUp (fsrRm fsr) neg q r d then q + 1 else q)
  if expBias f < c.1 then fpTrapWith fsr 2
  else if r = 0 then fpExact fsr (fpPack f neg c.1 c.2)
  else fpInexact fsr (fpPack f neg c.1 c.2)

/-- A delivery underflows, or delivers a number of units of a binade. -/
theorem fpResult_cases {f : FpLen} {neg : Bool} {n d : Nat} {e : Int} {fsr : Dword} (hn : 0 < n) (hd : 0 < d) :
    ((n : ℚ) / d * 2 ^ e < fpLeast f ∧
      fpResult f neg n d e fsr = ⟨fsrWithTt (fsrSetUf fsr) 1, if fsrUen fsr then none else some 0⟩) ∨
    (fpLeast f ≤ (n : ℚ) / d * 2 ^ e ∧ ∃ (q r b : Nat) (ex : Int), 2 ^ fracBits f ≤ q ∧ q < 2 ^ (fracBits f + 1) ∧
      r < b ∧ 1 - expBias f ≤ ex ∧ (n : ℚ) / d * 2 ^ e = (q + (r : ℚ) / b) * ulp f ex ∧
      fpResult f neg n d e fsr = deliverUnits f neg q r b ex fsr) := by
  obtain ⟨hlow, hhigh⟩ := fracExp_spec hn hd
  obtain ⟨t, ht⟩ : ∃ t, t = fracExp n d := ⟨_, rfl⟩
  rw [← ht] at hlow hhigh
  have hpe : (0 : ℚ) < 2 ^ e := zpow_pos two_pos _
  have hlow' : (2 : ℚ) ^ (t + e) ≤ n / d * 2 ^ e := by
    rw [zpow_add₀ two_ne_zero]
    exact mul_le_mul_of_nonneg_right hlow hpe.le
  have hhigh' : (n : ℚ) / d * 2 ^ e < 2 ^ (t + e + 1) := by
    rw [show t + e + 1 = (t + 1) + e by ring, zpow_add₀ two_ne_zero]
    exact mul_lt_mul_of_pos_right hhigh hpe
  by_cases hex : t + e < 1 - expBias f
  · refine .inl ⟨hhigh'.trans_le (zpow_le_zpow_right₀ one_le_two (by omega)), ?_⟩
    rw [fpResult, fpBias_eq, ← ht]
    exact if_pos hex
  · refine .inr ⟨(zpow_le_zpow_right₀ one_le_two (by omega)).trans hlow', ?_⟩
    obtain ⟨hb, hab⟩ := scaleFrac_spec (n := n) ((fracBits f : Int) - t) hd
    obtain ⟨⟨a, b⟩, hs⟩ : ∃ p, p = scaleFrac n d ((fracBits f : Int) - t) := ⟨_, rfl⟩
    rw [← hs] at hb hab
    have hunits : (n : ℚ) / d * 2 ^ e = (a : ℚ) / b * ulp f (t + e) := by
      rw [hab, ulp, mul_assoc, ← zpow_add₀ two_ne_zero]
      congr 2
      ring
    have hu := ulp_pos f (t + e)
    have hq : (2 : ℚ) ^ fracBits f ≤ a / b ∧ (a : ℚ) / b < 2 ^ (fracBits f + 1) := by
      rw [hunits] at hlow' hhigh'
      constructor
      · rwa [← pow_mul_ulp, mul_le_mul_iff_left₀ hu] at hlow'
      · rwa [zpow_add₀ two_ne_zero, zpow_one, mul_comm _ (2 : ℚ), ← pow_mul_ulp, ← mul_assoc, ← pow_succ',
          mul_lt_mul_iff_left₀ hu] at hhigh'
    have hbq : (0 : ℚ) < b := by exact_mod_cast hb
    have hbpos : 0 < b := hb
    rw [le_div_iff₀ hbq, div_lt_iff₀ hbq] at hq
    obtain ⟨hq1, hq2⟩ := hq
    refine ⟨a / b, a % b, b, t + e, ?_, ?_, Nat.mod_lt _ hbpos, by omega, ?_, ?_⟩
    · rw [Nat.le_div_iff_mul_le hbpos]
      exact_mod_cast hq1
    · rw [Nat.div_lt_iff_lt_mul hbpos]
      exact_mod_cast hq2
    · rw [hunits, div_eq_quot_add hbpos]
    · have hprec : ((fpPrec f : Nat) : Int) - 1 - t = fracBits f - t := by rw [fpPrec_eq]; push_cast; ring
      rw [fpResult, fpBias_eq, ← ht]
      dsimp only
      rw [if_neg hex, hprec, ← hs, fpPrec_eq, Nat.add_sub_cancel, deliverUnits, carried]
      dsimp only
      generalize (if roundUp (fsrRm fsr) neg (a / b) (a % b) b = true then a / b + 1 else a / b) = q1
      by_cases hc : q1 = 2 ^ (fracBits f + 1)
      · rw [if_pos hc, if_pos hc, if_pos hc]
      · rw [if_neg hc, if_neg hc, if_neg hc]

end Sys2Proof.Machine
end

section
/-! PROOFS. Overflow, and the delivery of an exact number by what it delivers (42_floating_point.md R259, R264). -/
namespace Sys2Proof.Machine

/-! ## Overflow (R259) -/

theorem fpGreatest_eq (f : FpLen) : fpGreatest f = (2 ^ (fracBits f + 1) - 1) * ulp f (expBias f) := by
  have hp : (2 : ℚ) ^ fracBits f ≠ 0 := by positivity
  rw [fpGreatest, ← pow_mul_ulp, pow_succ]
  field_simp

theorem roundsOut_half_eq (f : FpLen) : (2 : ℚ) ^ expBias f * (2 - 1 / 2 ^ (fracBits f + 1)) =
    (2 ^ (fracBits f + 1) - 1 / 2) * ulp f (expBias f) := by
  have hp : (2 : ℚ) ^ fracBits f ≠ 0 := by positivity
  rw [← pow_mul_ulp, pow_succ]
  field_simp

/-- Only a magnitude of the greatest binade or above rounds out of range. -/
theorem RoundsOut.large {f : FpLen} {mode : Nat} {x : ℚ} (h : RoundsOut f mode x) : (2 : ℚ) ^ expBias f ≤ |x| := by
  have hu := ulp_pos f (expBias f)
  have hw : (1 : ℚ) ≤ 2 ^ fracBits f := one_le_pow₀ one_le_two
  have hg : (2 : ℚ) ^ expBias f ≤ fpGreatest f := by
    rw [fpGreatest_eq, ← pow_mul_ulp, pow_succ]
    exact mul_le_mul_of_nonneg_right (by linarith) hu.le
  obtain h | ⟨-, h⟩ | ⟨-, h⟩ | ⟨-, h⟩ := h
  · exact (zpow_le_zpow_right₀ one_le_two (by omega)).trans h
  · refine le_trans ?_ h
    rw [roundsOut_half_eq, ← pow_mul_ulp, pow_succ]
    exact mul_le_mul_of_nonneg_right (by linarith) hu.le
  · exact (hg.trans h.le).trans (le_abs_self x)
  · have := neg_le_abs x
    linarith

theorem carried_fst (f : FpLen) (ex : Int) (q : Nat) :
    (carried f ex q).1 = if q = 2 ^ (fracBits f + 1) then ex + 1 else ex := apply_ite ..

/-- An amount of units of a binade rounds out of range exactly where the chosen neighbour is carried past the greatest
exponent. -/
theorem roundsOut_iff {f : FpLen} {mode q r d : Nat} {neg : Bool} {x : ℚ} {ex : Int} (hm : mode < 4)
    (hlo : 2 ^ fracBits f ≤ q) (hhi : q < 2 ^ (fracBits f + 1)) (hrd : r < d)
    (hx : x = signOf neg * ((q + (r : ℚ) / d) * ulp f ex)) :
    RoundsOut f mode x ↔ expBias f < (carried f ex (if roundUp mode neg q r d then q + 1 else q)).1 := by
  have hu := ulp_pos f ex
  have hdq : (0 : ℚ) < d := by exact_mod_cast (Nat.zero_le r).trans_lt hrd
  have ht0 : 0 ≤ (r : ℚ) / d := by positivity
  have ht1 : (r : ℚ) / d < 1 := by rw [div_lt_one hdq]; exact_mod_cast hrd
  have habs : |x| = (q + (r : ℚ) / d) * ulp f ex := by rw [hx, abs_signOf_mul, abs_of_nonneg (by positivity)]
  have hq1 : ((q : ℚ) + 1) ≤ 2 ^ (fracBits f + 1) := by exact_mod_cast hhi
  have hq0 : (2 : ℚ) ^ fracBits f ≤ q := by exact_mod_cast hlo
  have hbelow : |x| < 2 ^ (ex + 1) := by
    rw [habs, zpow_add₀ two_ne_zero, zpow_one, mul_comm _ (2 : ℚ), ← pow_mul_ulp, ← mul_assoc, ← pow_succ']
    exact mul_lt_mul_of_pos_right (by linarith) hu
  have habove : 2 ^ ex ≤ |x| := by
    rw [habs, ← pow_mul_ulp]
    exact mul_le_mul_of_nonneg_right (by linarith) hu.le
  obtain hlt | rfl | hgt := lt_trichotomy ex (expBias f)
  · have hle : (carried f ex (if roundUp mode neg q r d then q + 1 else q)).1 ≤ ex + 1 := by
      rw [carried_fst]
      split <;> omega
    have hsmall : |x| < 2 ^ expBias f := hbelow.trans_le (zpow_le_zpow_right₀ one_le_two (by omega))
    exact ⟨fun h => absurd h.large (not_le.2 hsmall), fun h => by omega⟩
  · have hcarry : expBias f < (carried f (expBias f) (if roundUp mode neg q r d then q + 1 else q)).1 ↔
        q + 1 = 2 ^ (fracBits f + 1) ∧ roundUp mode neg q r d = true := by
      rw [carried_fst]
      by_cases hup : roundUp mode neg q r d = true
      · rw [if_pos hup]
        split <;> simp [*]
      · rw [if_neg hup, if_neg hhi.ne]
        simp [hup]
    have htop (h : (2 : ℚ) ^ (fracBits f + 1) - 1 ≤ q + (r : ℚ) / d) : q + 1 = 2 ^ (fracBits f + 1) := by
      have hge : (2 : ℚ) ^ (fracBits f + 1) < ((q + 2 : Nat) : ℚ) := by push_cast; linarith
      have hge' : 2 ^ (fracBits f + 1) < q + 2 := by exact_mod_cast hge
      omega
    have hqtop (h : q + 1 = 2 ^ (fracBits f + 1)) : (q : ℚ) = 2 ^ (fracBits f + 1) - 1 := by
      rw [eq_sub_iff_add_eq]
      exact_mod_cast h
    have hodd (h : q + 1 = 2 ^ (fracBits f + 1)) : q % 2 = 1 := by rw [Nat.pow_succ] at h; omega
    rw [hcarry, RoundsOut, or_iff_right (not_le.2 hbelow)]
    have hpart : 0 < (r : ℚ) / d ↔ r ≠ 0 := by
      rw [div_pos_iff_of_pos_right hdq, Nat.cast_pos, Nat.pos_iff_ne_zero]
    have hsign : (fpGreatest f < x ↔ neg = false ∧ fpGreatest f < |x|) ∧
        (x < -fpGreatest f ↔ neg = true ∧ fpGreatest f < |x|) := by
      have hg : 0 ≤ fpGreatest f := by rw [fpGreatest_eq]; exact mul_nonneg (by linarith) hu.le
      have hx' : x = signOf neg * |x| := by rw [habs]; exact hx
      have h0 := abs_nonneg x
      cases neg
      · simp only [signOf, Bool.false_eq_true, if_false, one_mul] at hx'
        exact ⟨by rw [← hx']; simp, ⟨fun h => by linarith, fun h => by simp at h⟩⟩
      · simp only [signOf, if_true, neg_mul, one_mul] at hx'
        exact ⟨⟨fun h => by linarith, fun h => by simp at h⟩, ⟨fun h => ⟨rfl, by linarith⟩, fun h => by linarith [h.2]⟩⟩
    rw [hsign.1, hsign.2, fpGreatest_eq, roundsOut_half_eq, habs, mul_le_mul_iff_left₀ hu, mul_lt_mul_iff_left₀ hu]
    have hgreat : (2 : ℚ) ^ (fracBits f + 1) - 1 < q + (r : ℚ) / d ↔ q + 1 = 2 ^ (fracBits f + 1) ∧ r ≠ 0 := by
      constructor
      · intro h
        have := htop h.le
        rw [← hqtop this] at h
        exact ⟨this, hpart.1 (by linarith)⟩
      · rintro ⟨h, hr⟩
        have := hpart.2 hr
        rw [← hqtop h]
        linarith
    have hhalf : (2 : ℚ) ^ (fracBits f + 1) - 1 / 2 ≤ q + (r : ℚ) / d ↔ q + 1 = 2 ^ (fracBits f + 1) ∧ d ≤ 2 * r := by
      have hmid : 1 / 2 ≤ (r : ℚ) / d ↔ d ≤ 2 * r := by
        rw [div_le_div_iff₀ two_pos hdq, one_mul, mul_comm]
        exact_mod_cast Iff.rfl
      constructor
      · intro h
        have := htop (by linarith)
        rw [← add_sub_cancel_right (2 ^ (fracBits f + 1) : ℚ) 1, add_sub_right_comm, ← hqtop this] at h
        exact ⟨this, hmid.1 (by linarith)⟩
      · rintro ⟨h, hr⟩
        have := hmid.2 hr
        have := hqtop h
        linarith
    rw [hgreat, hhalf]
    match mode, hm with
    | 0, _ =>
      have hup : q + 1 = 2 ^ (fracBits f + 1) → (roundUp 0 neg q r d = true ↔ d ≤ 2 * r) := by
        intro h
        have := hodd h
        simp only [roundUp, Bool.or_eq_true, Bool.and_eq_true, decide_eq_true_eq]
        omega
      simp only [true_and, OfNat.zero_ne_ofNat, false_and, or_false]
      exact and_congr_right fun h => (hup h).symm
    | 1, _ => simp [roundUp]
    | 2, _ => cases neg <;> simp [roundUp]
    | 3, _ => cases neg <;> simp [roundUp]
  · refine ⟨fun _ => ?_, fun _ => .inl ((zpow_le_zpow_right₀ one_le_two (by omega)).trans habove)⟩
    rw [carried_fst]
    split <;> omega

/-! ## What is delivered for an exact number (R264) -/

/-- The answer for the exact number `x` that is not zero: an underflow, an overflow, or the number rounded once. -/
structure FpRounded (f : FpLen) (x : ℚ) (fsr : Dword) (out : FpOut) : Prop where
  small : |x| < fpLeast f → out = ⟨fsrWithTt (fsrSetUf fsr) 1, if fsrUen fsr then none else some 0⟩
  large : RoundsOut f (fsrRm fsr) x → out = fpTrapWith fsr 2
  inRange : fpLeast f ≤ |x| → ¬ RoundsOut f (fsrRm fsr) x → ∃ p, Rounds f (fsrRm fsr) x p ∧
    ((fpNumber f p = x ∧ out = fpExact fsr p) ∨
      ((∀ k, ¬ Reserved f k → fpNumber f k ≠ x) ∧ out = fpInexact fsr p))

theorem fsrRm_lt (fsr : Dword) : fsrRm fsr < 4 := Nat.mod_lt _ (by decide)

/-- The least normalized number is below the greatest binade. -/
theorem fpLeast_lt (f : FpLen) : fpLeast f < 2 ^ expBias f :=
  zpow_lt_zpow_right₀ one_lt_two (by have := expBias_pos f; omega)

/-- The delivery rounds the exact number. -/
theorem fpResult_rounded {f : FpLen} {neg : Bool} {n d : Nat} {e : Int} (fsr : Dword) {x : ℚ} (hn : 0 < n) (hd : 0 < d)
    (hx : x = signOf neg * ((n : ℚ) / d * 2 ^ e)) : FpRounded f x fsr (fpResult f neg n d e fsr) := by
  have habs : |x| = (n : ℚ) / d * 2 ^ e := by rw [hx, abs_signOf_mul, abs_of_nonneg (by positivity)]
  have hleast := fpLeast_lt f
  obtain ⟨hlt, hout⟩ | ⟨hge, q, r, b, ex, hlo, hhi, hrb, hemin, hunits, hout⟩ :=
    fpResult_cases (f := f) (neg := neg) (e := e) (fsr := fsr) hn hd
  · rw [← habs] at hlt
    exact ⟨fun _ => hout, fun h => absurd h.large (by linarith [h.large]), fun h => absurd h (not_le.2 hlt)⟩
  · rw [← habs] at hge hunits
    have hx' : x = signOf neg * ((q + (r : ℚ) / b) * ulp f ex) := by rw [hx, ← habs, hunits]
    have hover := roundsOut_iff (fsrRm_lt fsr) hlo hhi hrb hx'
    obtain ⟨q1, hq1⟩ : ∃ q1, q1 = if roundUp (fsrRm fsr) neg q r b then q + 1 else q := ⟨_, rfl⟩
    rw [← hq1] at hover
    have hbounds : 2 ^ fracBits f ≤ q1 ∧ q1 ≤ 2 ^ (fracBits f + 1) := by
      rw [hq1]
      split <;> omega
    obtain ⟨hclo, hchi, hcval, hcpar, hcex⟩ := carried_spec (ex := ex) hbounds.1 hbounds.2
    have hd' : fpResult f neg n d e fsr = if expBias f < (carried f ex q1).1 then fpTrapWith fsr 2
        else if r = 0 then fpExact fsr (fpPack f neg (carried f ex q1).1 (carried f ex q1).2)
        else fpInexact fsr (fpPack f neg (carried f ex q1).1 (carried f ex q1).2) := by
      rw [hout, deliverUnits, ← hq1]
    refine ⟨fun h => absurd hge (not_le.2 h), fun h => ?_, fun _ h => ?_⟩
    · rw [hd', if_pos (hover.1 h)]
    · have hmax := not_lt.1 (mt hover.2 h)
      obtain ⟨hshort, hvalid, -, -, hnumber, hparity⟩ := fpPack_spec neg hclo hchi (hemin.trans hcex) hmax
      have hnb : Neighbour f (fsrRm fsr) neg x q r b q1 ex (fpPack f neg (carried f ex q1).1 (carried f ex q1).2) :=
        ⟨hlo, hrb, hx', hq1, hshort, hvalid, by rw [hnumber, ← ulp, hcval], hparity.trans hcpar⟩
      refine ⟨_, hnb.rounds, ?_⟩
      rw [hd', if_neg (not_lt.2 hmax)]
      by_cases hr : r = 0
      · exact .inl ⟨hnb.exact_of_part hr, if_pos hr⟩
      · exact .inr ⟨hnb.inexact_of_part hr, if_neg hr⟩

end Sys2Proof.Machine
end

section
/-! PROOFS. The shapes of floating-point instructions, and FSR after them (42_floating_point.md R58, R264). -/
namespace Sys2Proof.Machine

/-! ## FSR (R58) -/

theorem fsrWithTt_mod (v : Dword) {tt : Nat} (h : tt < 8) : (fsrWithTt v tt).toNat % 8 = tt := by
  have hlow : (fsrWithTt v tt).setWidth 3 = BitVec.ofNat 3 tt := by
    rw [fsrWithTt, BitVec.setWidth_or, BitVec.setWidth_and, show (~~~7#32).setWidth 3 = 0#3 by decide, BitVec.and_zero,
      BitVec.zero_or, BitVec.setWidth_ofNat_of_le (by decide), Nat.mod_eq_of_lt h]
  have := congrArg BitVec.toNat hlow
  rwa [BitVec.toNat_setWidth, BitVec.toNat_ofNat, Nat.mod_eq_of_lt h] at this

theorem getLsbD_ofNat_of_lt {x k : Nat} (hx : x < 8) (hk : 3 ≤ k) : (BitVec.ofNat 32 x).getLsbD k = false := by
  have h8 : x < 2 ^ k := hx.trans_le (Nat.pow_le_pow_right (n := 2) (by decide) hk)
  rw [BitVec.getLsbD_ofNat, Nat.testBit_lt_two_pow h8, Bool.and_false]

theorem fsrWithTt_bit (v : Dword) (tt : Nat) {k : Nat} (hk : 3 ≤ k) : (fsrWithTt v tt).getLsbD k = v.getLsbD k := by
  rw [fsrWithTt, BitVec.getLsbD_or, BitVec.getLsbD_and, BitVec.getLsbD_not, getLsbD_ofNat_of_lt (by decide) hk,
    getLsbD_ofNat_of_lt (Nat.mod_lt _ (by decide)) hk, Bool.or_false, Bool.not_false, Bool.and_true]
  by_cases h : k < 32
  · simp [h]
  · simp [BitVec.getLsbD_of_ge _ _ (not_lt.1 h)]

theorem getLsbD_setBit (v : Dword) {j : Nat} (hj : j < 32) (k : Nat) :
    (v ||| BitVec.ofNat 32 (2 ^ j)).getLsbD k = (v.getLsbD k || k == j) := by
  rw [BitVec.getLsbD_or, BitVec.getLsbD_ofNat, Nat.testBit_two_pow]
  congr 1
  by_cases h : j = k
  · simp [h, h ▸ hj]
  · simp [h, Ne.symm h]

/-- FSR with a trap type, and a sticky flag set or not. -/
theorem fsrUpdated_tt (v : Dword) {tt : Nat} (h : tt < 8) : FsrUpdated v (fsrWithTt v tt) tt false false :=
  ⟨fsrWithTt_mod v h, fun k hk => by simp [fsrWithTt_bit v tt hk]⟩

theorem fsrUpdated_uf (v : Dword) {tt : Nat} (h : tt < 8) : FsrUpdated v (fsrWithTt (fsrSetUf v) tt) tt true false := by
  refine ⟨fsrWithTt_mod _ h, fun k hk => ?_⟩
  rw [fsrWithTt_bit _ tt hk, fsrSetUf, show 0x10#32 = BitVec.ofNat 32 (2 ^ 4) from rfl, getLsbD_setBit v (by decide)]
  simp

theorem fsrUpdated_if (v : Dword) {tt : Nat} (h : tt < 8) : FsrUpdated v (fsrWithTt (fsrSetIf v) tt) tt false true := by
  refine ⟨fsrWithTt_mod _ h, fun k hk => ?_⟩
  rw [fsrWithTt_bit _ tt hk, fsrSetIf, show 0x40#32 = BitVec.ofNat 32 (2 ^ 6) from rfl, getLsbD_setBit v (by decide)]
  simp

/-! ## Completing and trapping -/

theorem fpGuard_body {s : State} (hf : s.cfgF = true) (x : Res State) : fpGuard s x = x := if_pos hf

theorem run_fpTrap (s : State) (v : Dword) : s.run (s.fpTrap v) = finish (({ s with fsr := v } : State).trap .fpu) :=
  State.run_takeException ..

/-- Storing a value with FSR written, and passing control on. -/
def State.fpDeliver (s : State) (i : Instr) (fsr : Dword) (n v : Nat) (l : Loc) : Res State :=
  s.writeLoc n v l >>= fun t => .ok (({ t with fsr := fsr } : State).advance i)

theorem exec_fpDeliver {s s1 : State} {i : Instr} {n old v c : Nat} {l : Loc} {fsr : Dword}
    (he : exec i s = s.run ((s1.drawn c).fpDeliver i fsr n v l)) (hr : s1.readLoc n l = .ok old) (hf : LocFits n l)
    (hw : s1.mem.wf = true) (hx : s1.cut = .never) (hpc : s1.pc = s.pc) (hv : v < 256 ^ n) :
    ∃ t, exec i s = .next t ∧ t.readLoc n l = .ok v ∧ t.fsr = fsr ∧ FpOnly l n s1 t ∧ NextSequential i s t := by
  have hr : (s1.drawn c).readLoc n l = .ok old :=
    (State.readLoc_congr (s := s1) (t := s1.drawn c) rfl rfl rfl hx hx n l).trans hr
  obtain ⟨s2, h2, hread, ho, hpsr, hp2, hs, ⟨hb, hsys, -, hil⟩, -, -, hy⟩ := State.writeLoc_ok (v := v) hr hf hw hx
  obtain ⟨t, ht⟩ : ∃ t : State, t = { s2 with fsr := fsr } := ⟨_, rfl⟩
  refine ⟨t.advance i, ?_, ?_, ?_, ⟨?_, fun k _ => ?_, ?_, ?_, ?_, ?_⟩, advance_next_of (by rw [ht]; exact hp2.trans hpc) i⟩
  · rw [he, State.fpDeliver, h2, Res.ok_bind, ht]
    exact run_ok _ _
  · rw [Nat.mod_eq_of_lt hv] at hread
    rw [← hread]
    exact State.readLoc_congr (by simp [ht]) (by simp [ht]) (by simp [ht]) hy (by simp [ht, hy]) _ _
  · simp [ht]
  · exact ho.congr rfl rfl rfl (by simp [ht]) (by simp [ht]) (by simp [ht])
  · rw [State.advance_flag, ht, State.flag, State.flag]
    exact congrArg (Machine.flag · k) hpsr
  · simpa [SameStack, ht, State.drawn] using hs
  · simpa [SameBases, ht, State.drawn] using hb
  · simpa [SameSystem, ht, State.drawn] using hsys
  · simpa [ht, State.drawn] using hil

/-! ## Claims about the shapes -/

section
variable {ins : Instr} {f : FpLen} {src dst : Gen} {op : FpVal → FpVal → Dword → FpOut}

theorem fpBinary_eq {s s1 : State} {a b : Nat} {l : Loc} (hf : s.cfgF = true)
    (ha : readOp .fp f.bytes s s src = .ok (a, s1)) (hl : locate .fp s s1 dst = .ok l)
    (hb : s1.readLoc f.bytes l = .ok b) :
    fpBinary f ins src dst op s = match (op (fpUnpack f a) (fpUnpack f b) s.fsr).result with
      | none => s.fpTrap (op (fpUnpack f a) (fpUnpack f b) s.fsr).fsr
      | some v => s1.fpDeliver ins (op (fpUnpack f a) (fpUnpack f b) s.fsr).fsr f.bytes v l := by
  simp only [fpBinary, fpGuard_body hf, ha, hl, hb, Res.ok_bind]
  rfl

theorem fpClaim_of {pre : Nat → Nat → Dword → Prop} {rel : Nat → Nat → Dword → Nat → Dword → Prop}
    (he : ∀ s, exec ins s = s.run (fpBinary f ins src dst op s))
    (h : ∀ a b v, pre a b v → ∃ (w : Dword) (r : Nat), op (fpUnpack f a) (fpUnpack f b) v = ⟨w, some r⟩ ∧
      r < 256 ^ f.bytes ∧ rel a b v r w) : FpClaimIf pre ins f src dst rel := by
  intro s s1 a b l hw hx hf ha hl hb hp
  obtain ⟨-, -, hm, -, hpc, -, hq, -⟩ := readOp_frame ha
  obtain ⟨w, r, hop, hr, hrel⟩ := h a b s.fsr hp
  have hexec : exec ins s = s.run ((s1.drawn s1.freeCount).fpDeliver ins w f.bytes r l) := by
    rw [he, fpBinary_eq hf ha hl hb, hop]
    rfl
  obtain ⟨t, ht, hread, rfl, honly, hnext⟩ := exec_fpDeliver hexec hb (locate_fits_fp hl (fpBytes_cases f))
    (by rw [hm]; exact hw) (hq hx) hpc hr
  exact ⟨t, r, ht, hread, hrel, honly, hnext⟩

theorem fpTrapClaim_of {pre : Nat → Nat → Dword → Prop} {tt : Nat} {uf inexact : Bool}
    (he : ∀ s, exec ins s = s.run (fpBinary f ins src dst op s))
    (h : ∀ a b v, pre a b v → ∃ w : Dword, op (fpUnpack f a) (fpUnpack f b) v = ⟨w, none⟩ ∧
      FsrUpdated v w tt uf inexact) : FpTrapClaim pre ins f src dst tt uf inexact := by
  intro s s1 a b l hf ha hl hb hp
  obtain ⟨w, hop, hw⟩ := h a b s.fsr hp
  refine ⟨w, hw, ?_⟩
  rw [he, fpBinary_eq hf ha hl hb, hop]
  exact run_fpTrap s w

end

section
variable {ins : Instr} {bs bd : Bank} {ns nd : Nat} {src dst : Gen} {op : Nat → Dword → FpOut}

theorem fpUnary_eq {s s1 : State} {a : Nat} (hf : s.cfgF = true) (ha : readOp bs ns s s src = .ok (a, s1)) :
    fpUnary bs bd ns nd ins src dst op s = match (op a s.fsr).result with
      | none => s.fpTrap (op a s.fsr).fsr
      | some v => locateWrite bd nd s s1 dst >>= fun p => p.2.fpDeliver ins (op a s.fsr).fsr nd v p.1 := by
  rw [fpUnary, fpGuard_body hf, ha, Res.ok_bind]
  dsimp only
  cases (op a s.fsr).result with
  | none => rfl
  | some v =>
    dsimp only
    rw [writeOp]
    cases locateWrite bd nd s s1 dst <;> rfl

/-- `ins` with operands `src read.ns, dest write.nd` delivers some value in some FSR, whatever free values it draws. -/
theorem fpMoveClaim_of {pre : Nat → Dword → Prop} {rel : Nat → Dword → Nat → Dword → Prop} (hi : bd = .int → nd ≤ 4)
    (hfp : bd = .fp → nd = 4 ∨ nd = 8)
    (h : ∀ {s s1 s2 : State} {a : Nat} {l : Loc}, s.cfgF = true → readOp bs ns s s src = .ok (a, s1) →
      locateWrite bd nd s s1 dst = .ok (l, s2) → pre a s.fsr → ∃ (c : Nat) (w : Dword) (r : Nat),
      exec ins s = s.run ((s2.drawn c).fpDeliver ins w nd r l) ∧ r < 256 ^ nd ∧ rel a s.fsr r w) :
    FpMoveClaimIf pre ins bs bd ns nd src dst rel := by
  intro s s1 s2 a old l hw hx hf ha hl hd hp
  obtain ⟨-, -, hm, -, hpc, -, hq, -⟩ := readOp_frame ha
  obtain ⟨-, -, hm', -, hpc', -, hq', -⟩ := locateWrite_frame hl
  obtain ⟨c, w, r, hexec, hr, hrel⟩ := h hf ha hl hp
  obtain ⟨t, ht, hread, rfl, honly, hnext⟩ := exec_fpDeliver hexec hd (locateWrite_fits hl hi hfp)
    (by rw [hm', hm]; exact hw) (hq'.trans (hq hx)) (hpc'.trans hpc) hr
  exact ⟨t, r, ht, hread, hrel, honly, hnext⟩

theorem fpMoveClaim_of_shape {pre : Nat → Dword → Prop} {rel : Nat → Dword → Nat → Dword → Prop} (hi : bd = .int → nd ≤ 4)
    (hfp : bd = .fp → nd = 4 ∨ nd = 8) (he : ∀ s, exec ins s = s.run (fpUnary bs bd ns nd ins src dst op s))
    (h : ∀ a v, a < 256 ^ ns → pre a v → ∃ (w : Dword) (r : Nat), op a v = ⟨w, some r⟩ ∧ r < 256 ^ nd ∧ rel a v r w)
    (hsi : bs = .int → ns ≤ 4) (hsf : bs = .fp → ns = 4 ∨ ns = 8) : FpMoveClaimIf pre ins bs bd ns nd src dst rel :=
  fpMoveClaim_of hi hfp fun {s s1 s2 a l} hf ha hl hp => by
    obtain ⟨w, r, hop, hr, hrel⟩ := h a s.fsr (readOp_lt ha hsi hsf) hp
    refine ⟨s2.freeCount, w, r, ?_, hr, hrel⟩
    rw [he, fpUnary_eq hf ha, hop]
    dsimp only
    rw [hl]
    rfl

theorem fpMoveTrapClaim_of {pre : Nat → Dword → Prop} {tt : Nat} {uf inexact : Bool}
    (he : ∀ s, exec ins s = s.run (fpUnary bs bd ns nd ins src dst op s))
    (h : ∀ a v, pre a v → ∃ w : Dword, op a v = ⟨w, none⟩ ∧ FsrUpdated v w tt uf inexact) :
    FpMoveTrapClaim pre ins bs ns src tt uf inexact := by
  intro s s1 a hf ha hp
  obtain ⟨w, hop, hw⟩ := h a s.fsr hp
  refine ⟨w, hw, ?_⟩
  rw [he, fpUnary_eq hf ha, hop]
  exact run_fpTrap s w

end

/-! ## LFSR, SFSR and the unassigned codes (R261, R285, R286) -/

theorem exec_lfsr {s s1 : State} {g : Gen} {v : Nat} (hf : s.cfgF = true) (hv : readOp .int 4 s s g = .ok (v, s1)) :
    exec (.lfsr g) s = .next (({ s1 with fsr := BitVec.ofNat 32 v &&& fsrMask } : State).advance (.lfsr g)) := by
  change s.run (fpGuard s (readOp .int 4 s s g >>= fun p =>
    .ok (({ p.2 with fsr := BitVec.ofNat 32 p.1 &&& fsrMask } : State).advance (.lfsr g)))) = _
  rw [fpGuard_body hf, hv]
  exact run_ok _ _

theorem and_fsrMask_toNat {v : Nat} (hv : v < 2 ^ 32) : (BitVec.ofNat 32 v &&& fsrMask).toNat = v % 65536 := by
  rw [BitVec.toNat_and, BitVec.toNat_ofNat, Nat.mod_eq_of_lt hv]
  exact Nat.and_two_pow_sub_one_eq_mod v 16

/-- A trap of the floating-point unit, ready as every trap is. -/
theorem exec_fpTrap_ready {s : State} {i : Instr} (v : Dword)
    (he : exec i s = finish (({ s with fsr := v } : State).trap .fpu)) (hw : s.mem.wf = true)
    (h : ExceptionReady s s.psr 3 s.pc.toNat) :
    ∃ t, exec i s = .next t ∧ ExceptionTaken { s with fsr := v } s.psr 3 s.pc.toNat t ∧
      Cleared [.s, .u, .p, .t] s.psr t.psr := by
  obtain ⟨t, ht, htaken, hcleared, -, -⟩ := State.trap_ready (s := { s with fsr := v }) (k := .fpu) hw h
  exact ⟨t, he.trans (finish_next.2 (Or.inl ht)), htaken, hcleared⟩

/-- Settles O60: LFSR masks what it reads, SFSR is a store, and the codes are a trap with FSR written first. -/
theorem floatStatus : Obligations.FloatStatus := by
  intro g hi lo
  refine ⟨fun s s1 v hf hv => ?_, ?_, fun s hf hw hready => ⟨fsrWithTt s.fsr 4, fsrUpdated_tt _ (by decide), ?_, ?_⟩⟩
  · obtain ⟨-, -, -, -, hpc, -, -, -⟩ := readOp_frame hv
    refine ⟨_, exec_lfsr hf hv, ?_, ?_, advance_next_of (u := { s1 with fsr := BitVec.ofNat 32 v &&& fsrMask }) hpc _⟩
    · rw [State.advance_fsr]
      exact and_fsrMask_toNat (readOp_lt hv (fun _ => by decide) nofun)
    · rw [State.advance_fsr]
      exact State.advance_onlyControl _ _
  · refine storeClaim_of le_rfl fun {s s2 l} hf hl => ⟨s.fsr.toNat, ?_, Nat.mod_eq_of_lt s.fsr.isLt⟩
    change s.run (fpGuard s (writeOp .int 4 s.fsr.toNat s s g >>= fun t => .ok (t.advance (.sfsr g)))) = _
    rw [fpGuard_body hf, writeOp_next _ _ hl]
  · refine exec_fpTrap_ready _ ?_ hw hready
    change s.run (fpGuard s (s.fpTrap (fsrWithTt s.fsr 4))) = _
    rw [fpGuard_body hf, run_fpTrap]
  · refine exec_fpTrap_ready _ ?_ hw hready
    change s.run (fpGuard s (s.fpTrap (fsrWithTt s.fsr 4))) = _
    rw [fpGuard_body hf, run_fpTrap]

end Sys2Proof.Machine
end

section
/-! PROOFS. The value of an unpacked pattern, and what each operation delivers for the exact result
(42_floating_point.md sections 1 and 3). -/
namespace Sys2Proof.Machine

/-! ## Unpacked values -/

/-- The number an unpacked pattern stands for; a reserved one stands for none. -/
def fpValue : FpVal → ℚ
  | .zero _ => 0
  | .num x m e => signOf x * (m * 2 ^ e)
  | .reserved => 0

/-- The sign of an unpacked pattern. -/
def fpNeg : FpVal → Bool
  | .zero x => x
  | .num x _ _ => x
  | .reserved => false

/-- A number has a positive significand. -/
def FpValid : FpVal → Prop
  | .zero _ => True
  | .num _ m _ => 0 < m
  | .reserved => False

theorem fpUnpack_valid {f : FpLen} {v : Nat} (h : ¬ Reserved f v) :
    FpValid (fpUnpack f v) ∧ fpValue (fpUnpack f v) = fpNumber f v ∧ fpNeg (fpUnpack f v) = negative f v := by
  obtain ⟨he, -, h0⟩ | ⟨m, ex, he, hm, -, -, -, hn⟩ := fpUnpack_cases h
  · rw [he, h0]
    exact ⟨trivial, rfl, rfl⟩
  · rw [he, hn]
    exact ⟨(Nat.two_pow_pos _).trans_le hm, rfl, rfl⟩

/-- A pattern for the number zero unpacks to a zero with its sign. -/
theorem fpUnpack_zero {f : FpLen} {v : Nat} (h : ¬ Reserved f v) (h0 : fpNumber f v = 0) :
    fpUnpack f v = .zero (negative f v) := by
  obtain ⟨he, -, -⟩ | ⟨m, ex, he, hm, -, -, -, hn⟩ := fpUnpack_cases h
  · exact he
  · have hpos : (0 : ℚ) < m := by exact_mod_cast (Nat.two_pow_pos _).trans_le hm
    have habs : |fpNumber f v| = m * 2 ^ (ex - fracBits f) := by
      rw [hn, abs_signOf_mul, abs_of_nonneg (by positivity)]
    rw [h0, abs_zero] at habs
    exact absurd habs (by positivity)

/-- A pattern for a number other than zero unpacks to a number with its sign. -/
theorem fpUnpack_num {f : FpLen} {v : Nat} (h : ¬ Reserved f v) (h0 : fpNumber f v ≠ 0) :
    ∃ (m : Nat) (e : Int), fpUnpack f v = .num (negative f v) m e ∧ 0 < m ∧
      fpNumber f v = signOf (negative f v) * (m * 2 ^ e) := by
  obtain ⟨-, -, hz⟩ | ⟨m, ex, he, hm, -, -, -, hn⟩ := fpUnpack_cases h
  · exact absurd hz h0
  · exact ⟨m, _, he, (Nat.two_pow_pos _).trans_le hm, hn⟩

theorem fpNegate_valid {v : FpVal} (h : FpValid v) : 
    FpValid (fpNegate v) ∧ fpValue (fpNegate v) = -fpValue v ∧ fpNeg (fpNegate v) = !fpNeg v := by
  cases v with
  | zero x => exact ⟨trivial, neg_zero.symm, rfl⟩
  | num x m e => exact ⟨h, by rw [fpNegate, fpValue, fpValue, signOf_not, neg_mul], rfl⟩
  | reserved => exact h.elim

theorem fpValue_num_ne {x : Bool} {m : Nat} {e : Int} (hm : 0 < m) : fpValue (.num x m e) ≠ 0 := by
  have hmq : (0 : ℚ) < m := by exact_mod_cast hm
  rw [← abs_pos, fpValue, abs_signOf_mul]
  positivity

/-- A number as a multiple of a power of two that is not above its own. -/
theorem fpScaled_value (x : Bool) (m : Nat) {e k : Int} (hk : k ≤ e) :
    (fpScaled x m e k : ℚ) * 2 ^ k = signOf x * (m * 2 ^ e) := by
  obtain ⟨j, rfl⟩ : ∃ j : Nat, e = k + j := ⟨(e - k).toNat, by omega⟩
  have hj : (k + j - k).toNat = j := by omega
  rw [fpScaled, hj, zpow_add₀ two_ne_zero, zpow_natCast]
  cases x
  · simp only [signOf, Bool.false_eq_true, if_false]
    push_cast
    ring
  · simp only [signOf, if_true]
    push_cast
    ring

/-! ## Comparison (R276) -/

/-- The exponent below which a value has no bits. -/
def fpLow : FpVal → Int
  | .num _ _ e => e
  | _ => 0

/-- A value in multiples of 2^k. -/
def fpKey (v : FpVal) (k : Int) : Int :=
  match v with
  | .num x m e => fpScaled x m e k
  | _ => 0

theorem fpCompare_eq (a b : FpVal) : fpCompare a b =
    (decide (fpKey b (min (fpLow a) (fpLow b)) < fpKey a (min (fpLow a) (fpLow b))),
      decide (fpKey a (min (fpLow a) (fpLow b)) = fpKey b (min (fpLow a) (fpLow b)))) := by
  cases a <;> cases b <;> rfl

theorem fpKey_value {v : FpVal} {k : Int} (hk : k ≤ fpLow v) : (fpKey v k : ℚ) * 2 ^ k = fpValue v := by
  cases v with
  | num x m e => exact fpScaled_value x m hk
  | zero x => exact (congrArg (· * (2 : ℚ) ^ k) Int.cast_zero).trans (zero_mul _)
  | reserved => exact (congrArg (· * (2 : ℚ) ^ k) Int.cast_zero).trans (zero_mul _)

theorem fpCompare_value (a b : FpVal) :
    fpCompare a b = (decide (fpValue b < fpValue a), decide (fpValue a = fpValue b)) := by
  have hp : (0 : ℚ) < 2 ^ min (fpLow a) (fpLow b) := zpow_pos two_pos _
  rw [fpCompare_eq, ← fpKey_value (min_le_left (fpLow a) (fpLow b)), ← fpKey_value (min_le_right (fpLow a) (fpLow b))]
  simp only [mul_lt_mul_iff_left₀ hp, mul_left_inj' hp.ne', Int.cast_lt, Int.cast_inj]

/-! ## The four operations (R270 to R273) -/

theorem fpDeliver_zero (f : FpLen) (k : Int) (fsr : Dword) :
    fpDeliver f 0 k fsr = fpExact fsr (fpZero f (zeroSumNeg fsr)) := if_pos rfl

theorem fpDeliver_rounded {f : FpLen} {v k : Int} {fsr : Dword} (hv : v ≠ 0) :
    FpRounded f (v * 2 ^ k) fsr (fpDeliver f v k fsr) := by
  rw [fpDeliver, if_neg hv]
  refine fpResult_rounded fsr (Int.natAbs_pos.2 hv) one_pos ?_
  have h := signOf_mul_abs (v : ℚ)
  have hneg : decide ((v : ℚ) < 0) = decide (v < 0) := by simp
  rw [hneg] at h
  rw [Nat.cast_one, div_one, ← mul_assoc, Nat.cast_natAbs, Int.cast_abs, h]

/-- A sum delivered by its multiples of a common unit. -/
theorem fpDeliver_sum {f : FpLen} {v k : Int} {x : ℚ} (fsr : Dword) (hx : (v : ℚ) * 2 ^ k = x) :
    (x ≠ 0 → FpRounded f x fsr (fpDeliver f v k fsr)) ∧
      (x = 0 → fpDeliver f v k fsr = fpExact fsr (fpZero f (zeroSumNeg fsr))) := by
  have hp : (2 : ℚ) ^ k ≠ 0 := zpow_ne_zero _ two_ne_zero
  constructor
  · rintro h
    rw [← hx] at h ⊢
    exact fpDeliver_rounded fun h0 => h (by rw [h0, Int.cast_zero, zero_mul])
  · rintro rfl
    have hv : v = 0 := by
      have := (mul_eq_zero.1 hx).resolve_right hp
      exact_mod_cast this
    rw [hv, fpDeliver_zero]

/-- ADDf rounds a sum that is not zero; a zero sum has the sign of two zeros that agree, else that of the mode. -/
theorem fpAdd_spec {f : FpLen} {a b : FpVal} (fsr : Dword) (ha : FpValid a) (hb : FpValid b) :
    (fpValue b + fpValue a ≠ 0 → FpRounded f (fpValue b + fpValue a) fsr (fpAdd f a b fsr)) ∧
    (fpValue b + fpValue a = 0 → fpAdd f a b fsr = fpExact fsr (fpZero f
      (if fpValue a = 0 ∧ fpNeg a = fpNeg b then fpNeg a else zeroSumNeg fsr))) := by
  cases a with
  | reserved => exact ha.elim
  | zero x =>
    cases b with
    | reserved => exact hb.elim
    | zero y =>
      refine ⟨fun h => absurd (add_zero 0) h, fun _ => ?_⟩
      simp only [fpAdd, fpValue, fpNeg, true_and]
    | num y m e =>
      have hsum : (fpScaled y m e e : ℚ) * 2 ^ e = fpValue (.num y m e) + fpValue (.zero x) := by
        rw [fpScaled_value y m le_rfl, fpValue, fpValue, add_zero]
      refine ⟨(fpDeliver_sum fsr hsum).1, fun h => absurd h ?_⟩
      rw [fpValue, add_zero]
      exact fpValue_num_ne hb
  | num x m e =>
    have ha0 := fpValue_num_ne (x := x) (e := e) ha
    cases b with
    | reserved => exact hb.elim
    | zero y =>
      have hsum : (fpScaled x m e e : ℚ) * 2 ^ e = fpValue (.zero y) + fpValue (.num x m e) := by
        rw [fpScaled_value x m le_rfl, fpValue, fpValue, zero_add]
      refine ⟨(fpDeliver_sum fsr hsum).1, fun h => absurd h ?_⟩
      rw [fpValue, zero_add]
      exact ha0
    | num y n g =>
      have hsum : ((fpScaled x m e (min e g) + fpScaled y n g (min e g) : Int) : ℚ) * 2 ^ min e g =
          fpValue (.num y n g) + fpValue (.num x m e) := by
        push_cast
        rw [add_mul, fpScaled_value x m (min_le_left _ _), fpScaled_value y n (min_le_right _ _), add_comm]
        rfl
      refine ⟨(fpDeliver_sum fsr hsum).1, fun h => ?_⟩
      rw [if_neg fun hz => ha0 hz.1]
      exact (fpDeliver_sum fsr hsum).2 h

/-- MULf of two numbers other than zero rounds their product. -/
theorem fpMul_rounded {f : FpLen} {a b : FpVal} (fsr : Dword) (ha : FpValid a) (hb : FpValid b)
    (h : fpValue b * fpValue a ≠ 0) : FpRounded f (fpValue b * fpValue a) fsr (fpMul f a b fsr) := by
  obtain ⟨hb0, ha0⟩ := mul_ne_zero_iff.1 h
  cases a with
  | reserved => exact ha.elim
  | zero x => exact absurd rfl ha0
  | num x m e =>
    cases b with
    | reserved => exact hb.elim
    | zero y => exact absurd rfl hb0
    | num y n g =>
      refine fpResult_rounded fsr (Nat.mul_pos ha hb) one_pos ?_
      rw [fpValue, fpValue, signOf_bne, zpow_add₀ two_ne_zero]
      push_cast
      ring

/-- DIVf of two numbers other than zero rounds their quotient. -/
theorem fpDiv_rounded {f : FpLen} {a b : FpVal} (fsr : Dword) (ha : FpValid a) (hb : FpValid b)
    (h : fpValue b / fpValue a ≠ 0) : FpRounded f (fpValue b / fpValue a) fsr (fpDiv f a b fsr) := by
  obtain ⟨hb0, ha0⟩ := div_ne_zero_iff.1 h
  cases a with
  | reserved => exact ha.elim
  | zero x => exact absurd rfl ha0
  | num x m e =>
    cases b with
    | reserved => exact hb.elim
    | zero y => exact absurd rfl hb0
    | num y n g =>
      refine fpResult_rounded fsr hb ha ?_
      have hs : signOf y / signOf x = signOf x * signOf y := by cases x <;> cases y <;> norm_num [signOf]
      rw [fpValue, fpValue, signOf_bne, zpow_sub₀ two_ne_zero, mul_div_mul_comm, hs, mul_div_mul_comm]

/-- A zero factor gives a zero with the sign of the product. -/
theorem fpMul_zero {f : FpLen} {a b : FpVal} (fsr : Dword) (ha : FpValid a) (hb : FpValid b)
    (h : fpValue b * fpValue a = 0) : fpMul f a b fsr = fpExact fsr (fpZero f (fpNeg a != fpNeg b)) := by
  cases a with
  | reserved => exact ha.elim
  | zero x =>
    cases b with
    | reserved => exact hb.elim
    | _ => rfl
  | num x m e =>
    cases b with
    | reserved => exact hb.elim
    | zero y => rfl
    | num y n g => exact absurd h (mul_ne_zero (fpValue_num_ne hb) (fpValue_num_ne ha))

/-- A zero divided by a number gives a zero with the sign of the quotient (R273). -/
theorem fpDiv_zero {f : FpLen} {a b : FpVal} (fsr : Dword) (ha : FpValid a) (hb : FpValid b) (ha0 : fpValue a ≠ 0)
    (hb0 : fpValue b = 0) : fpDiv f a b fsr = fpExact fsr (fpZero f (fpNeg a != fpNeg b)) := by
  cases a with
  | reserved => exact ha.elim
  | zero x => exact absurd rfl ha0
  | num x m e =>
    cases b with
    | reserved => exact hb.elim
    | zero y => rfl
    | num y n g => exact absurd hb0 (fpValue_num_ne hb)

/-- Zero divided by zero is invalid, and another number divided by it a division by zero (R260, R262). -/
theorem fpDiv_by_zero {f : FpLen} {a b : FpVal} (fsr : Dword) (ha : FpValid a) (hb : FpValid b) (ha0 : fpValue a = 0) :
    fpDiv f a b fsr = fpTrapWith fsr (if fpValue b = 0 then 5 else 3) := by
  cases a with
  | reserved => exact ha.elim
  | num x m e => exact absurd ha0 (fpValue_num_ne ha)
  | zero x =>
    cases b with
    | reserved => exact hb.elim
    | zero y => rw [if_pos (by rfl)]; rfl
    | num y n g => rw [if_neg (fpValue_num_ne hb)]; rfl

/-! ## The four operations as one -/

/-- What an operation of ADDf, SUBf, MULf and DIVf computes (R270 to R273). -/
structure FpOperation (f : FpLen) (val : ℚ → ℚ → ℚ) (op : FpVal → FpVal → Dword → FpOut) : Prop where
  rounded : ∀ (a b : Nat) (fsr : Dword), ¬ Reserved f a → ¬ Reserved f b → val (fpNumber f a) (fpNumber f b) ≠ 0 →
    FpRounded f (val (fpNumber f a) (fpNumber f b)) fsr (op (fpUnpack f a) (fpUnpack f b) fsr)
  invalid : ∀ (a b : Nat) (fsr : Dword), Reserved f a ∨ Reserved f b →
    op (fpUnpack f a) (fpUnpack f b) fsr = fpTrapWith fsr 5

theorem fpOperation_invalid {f : FpLen} {op : FpVal → FpVal → Dword → FpOut}
    (hl : ∀ b fsr, op .reserved b fsr = fpTrapWith fsr 5) (hr : ∀ a fsr, op a .reserved fsr = fpTrapWith fsr 5)
    (a b : Nat) (fsr : Dword) (h : Reserved f a ∨ Reserved f b) :
    op (fpUnpack f a) (fpUnpack f b) fsr = fpTrapWith fsr 5 := by
  obtain h | h := h
  · rw [fpUnpack_reserved.2 h, hl]
  · rw [fpUnpack_reserved.2 h, hr]

theorem fpAdd_operation (f : FpLen) : FpOperation f (fun a b => b + a) (fpAdd f) where
  rounded a b fsr ha hb h := by
    obtain ⟨hva, hna, -⟩ := fpUnpack_valid ha
    obtain ⟨hvb, hnb, -⟩ := fpUnpack_valid hb
    rw [← hna, ← hnb] at h ⊢
    exact (fpAdd_spec fsr hva hvb).1 h
  invalid := fpOperation_invalid (fun _ _ => rfl) fun a _ => by cases a <;> rfl

theorem fpSub_operation (f : FpLen) :
    FpOperation f (fun a b => b - a) (fun a b => fpAdd f (fpNegate a) b) where
  rounded a b fsr ha hb h := by
    obtain ⟨hva, hna, -⟩ := fpUnpack_valid ha
    obtain ⟨hvb, hnb, -⟩ := fpUnpack_valid hb
    obtain ⟨hvn, hneg, -⟩ := fpNegate_valid hva
    rw [sub_eq_add_neg, ← hna, ← hnb, ← hneg] at h ⊢
    exact (fpAdd_spec fsr hvn hvb).1 h
  invalid := fpOperation_invalid (op := fun a b => fpAdd f (fpNegate a) b) (fun _ _ => rfl)
    fun a _ => by cases a <;> rfl

theorem fpMul_operation (f : FpLen) : FpOperation f (fun a b => b * a) (fpMul f) where
  rounded a b fsr ha hb h := by
    obtain ⟨hva, hna, -⟩ := fpUnpack_valid ha
    obtain ⟨hvb, hnb, -⟩ := fpUnpack_valid hb
    rw [← hna, ← hnb] at h ⊢
    exact fpMul_rounded fsr hva hvb h
  invalid := fpOperation_invalid (fun _ _ => rfl) fun a _ => by cases a <;> rfl

theorem fpDiv_operation (f : FpLen) : FpOperation f (fun a b => b / a) (fpDiv f) where
  rounded a b fsr ha hb h := by
    obtain ⟨hva, hna, -⟩ := fpUnpack_valid ha
    obtain ⟨hvb, hnb, -⟩ := fpUnpack_valid hb
    rw [← hna, ← hnb] at h ⊢
    exact fpDiv_rounded fsr hva hvb h
  invalid := fpOperation_invalid (fun _ _ => rfl) fun a _ => by cases a <;> rfl

/-- The operation of each of the four instructions. -/
theorem exec_fpOperation {f : FpLen} {src dst : Gen} {ins : Instr} {val : ℚ → ℚ → ℚ}
    (h : (ins = .addf f src dst ∧ val = (fun a b => b + a)) ∨ (ins = .subf f src dst ∧ val = (fun a b => b - a)) ∨
      (ins = .mulf f src dst ∧ val = (fun a b => b * a)) ∨ (ins = .divf f src dst ∧ val = (fun a b => b / a))) :
    ∃ op, FpOperation f val op ∧ ∀ s, exec ins s = s.run (fpBinary f ins src dst op s) := by
  obtain ⟨rfl, rfl⟩ | ⟨rfl, rfl⟩ | ⟨rfl, rfl⟩ | ⟨rfl, rfl⟩ := h
  · exact ⟨_, fpAdd_operation f, fun _ => rfl⟩
  · exact ⟨_, fpSub_operation f, fun _ => rfl⟩
  · exact ⟨_, fpMul_operation f, fun _ => rfl⟩
  · exact ⟨_, fpDiv_operation f, fun _ => rfl⟩

end Sys2Proof.Machine
end

section
/-! PROOFS. The four operations, the moves and the comparison (42_floating_point.md sections 3 and 4). -/
namespace Sys2Proof.Machine

/-! ## What a rounded result is, for FSR -/

theorem fpLeast_pos (f : FpLen) : 0 < fpLeast f := zpow_pos two_pos _

namespace FpRounded
variable {f : FpLen} {x : ℚ} {v : Dword} {out : FpOut}

/-- A number in range is delivered rounded, where an inexact result does not trap (R255, R263). -/
theorem delivers (h : FpRounded f x v out) (hleast : fpLeast f ≤ |x|) (hrange : ¬ RoundsOut f (v.toNat / 128 % 4) x)
    (hexact : v.getLsbD 5 = false ∨ ∃ p, p < 256 ^ f.bytes ∧ ¬ Reserved f p ∧ fpNumber f p = x) :
    ∃ (w : Dword) (r : Nat), out = ⟨w, some r⟩ ∧ r < 256 ^ f.bytes ∧ Rounds f (v.toNat / 128 % 4) x r ∧
      (fpNumber f r = x → FsrUpdated v w 0 false false) ∧ (fpNumber f r ≠ x → FsrUpdated v w 6 false true) := by
  obtain ⟨p, hp, ⟨heq, rfl⟩ | ⟨hne, rfl⟩⟩ := h.inRange hleast hrange
  · exact ⟨_, p, rfl, hp.1, hp, fun _ => fsrUpdated_tt v (by decide), fun hn => absurd heq hn⟩
  · have hien : fsrIen v = false := hexact.resolve_right fun ⟨k, _, hk, hx⟩ => hne k hk hx
    refine ⟨_, p, ?_, hp.1, hp, fun heq => absurd heq (hne p hp.2.1), fun _ => fsrUpdated_if v (by decide)⟩
    rw [fpInexact, hien]
    rfl

/-- An underflow that is not enabled gives +0 and sets UF (R258). -/
theorem underflows (h : FpRounded f x v out) (hleast : |x| < fpLeast f) (huen : v.getLsbD 3 = false) :
    ∃ w : Dword, out = ⟨w, some 0⟩ ∧ FsrUpdated v w 1 true false := by
  refine ⟨_, ?_, fsrUpdated_uf v (by decide)⟩
  rw [h.small hleast, show fsrUen v = false from huen]
  rfl

/-- An enabled underflow traps (R258). -/
theorem underflow_traps (h : FpRounded f x v out) (hleast : |x| < fpLeast f) (huen : v.getLsbD 3 = true) :
    ∃ w : Dword, out = ⟨w, none⟩ ∧ FsrUpdated v w 1 true false := by
  refine ⟨_, ?_, fsrUpdated_uf v (by decide)⟩
  rw [h.small hleast, show fsrUen v = true from huen]
  rfl

/-- An overflow traps (R259). -/
theorem overflow_traps (h : FpRounded f x v out) (hrange : RoundsOut f (v.toNat / 128 % 4) x) :
    ∃ w : Dword, out = ⟨w, none⟩ ∧ FsrUpdated v w 2 false false :=
  ⟨_, h.large hrange, fsrUpdated_tt v (by decide)⟩

/-- An enabled inexact result traps (R263). -/
theorem inexact_traps (h : FpRounded f x v out) (hleast : fpLeast f ≤ |x|) (hrange : ¬ RoundsOut f (v.toNat / 128 % 4) x)
    (hien : v.getLsbD 5 = true) (hno : ¬ ∃ p, p < 256 ^ f.bytes ∧ ¬ Reserved f p ∧ fpNumber f p = x) :
    ∃ w : Dword, out = ⟨w, none⟩ ∧ FsrUpdated v w 6 false true := by
  obtain ⟨p, ⟨hshort, hvalid, -⟩, ⟨heq, -⟩ | ⟨-, rfl⟩⟩ := h.inRange hleast hrange
  · exact absurd ⟨p, hshort, hvalid, heq⟩ hno
  · refine ⟨_, ?_, fsrUpdated_if v (by decide)⟩
    rw [fpInexact, show fsrIen v = true from hien]
    rfl

end FpRounded

theorem ne_zero_of_least {f : FpLen} {x : ℚ} (h : fpLeast f ≤ |x|) : x ≠ 0 :=
  abs_pos.1 ((fpLeast_pos f).trans_le h)

theorem RoundsOut.ne_zero {f : FpLen} {mode : Nat} {x : ℚ} (h : RoundsOut f mode x) : x ≠ 0 :=
  ne_zero_of_least ((fpLeast_lt f).le.trans h.large)

/-- Settles O55: each operation answers the exact result rounded (`FpOperation.rounded`). -/
theorem floatArithmetic : Obligations.FloatArithmetic := by
  intro f src dst ins val h
  obtain ⟨op, hop, he⟩ := exec_fpOperation h
  refine fpClaim_of he fun a b v ⟨ha, hb, hleast, hrange, hexact⟩ => ?_
  obtain ⟨w, r, hout, hr, hrounds, h0, h6⟩ :=
    (hop.rounded a b v ha hb (ne_zero_of_least hleast)).delivers hleast hrange hexact
  exact ⟨w, r, hout, hr, hrounds, h0, h6⟩

/-! ## Zero results (R256, R258, R270 to R273) -/

/-- A zero delivered without an exceptional condition. -/
theorem fpExact_zero (f : FpLen) (neg : Bool) (v : Dword) :
    ∃ (w : Dword) (r : Nat), fpExact v (fpZero f neg) = ⟨w, some r⟩ ∧ r < 256 ^ f.bytes ∧ expField f r = 0 ∧
      fracField f r = 0 ∧ FsrUpdated v w 0 false false ∧ negative f r = neg := by
  obtain ⟨hlt, hexp, hfrac, hneg⟩ := fpZero_spec f neg
  exact ⟨_, _, rfl, hlt, hexp, hfrac, fsrUpdated_tt v (by decide), hneg⟩

/-! ### MOVLF -/

theorem setSp_drawn (s : State) (c : Nat) (a : AddrReg) : (s.drawn c).setSp a = (s.setSp a).drawn c := by
  rw [State.setSp, State.setSp, show (s.drawn c).flag .s = s.flag .s from rfl]
  split <;> rfl

/-- A free value drawn changes no address and no location. -/
theorem modeAddr_drawn {s0 s : State} {c : Nat} {m : Mode} {a : Dword} (h : modeAddr s0 s m = .ok a) :
    modeAddr s0 (s.drawn c) m = .ok a := by
  have read {b : Dword} {v : Nat} (hv : s.memRead b 4 = .ok v) : (s.drawn c).memRead b 4 = .ok v :=
    memRead_congr (s := s) rfl rfl hv
  have relative {b : Dword} {d1 d2 : Disp} (hr : s.relative b d1 d2 = .ok a) : (s.drawn c).relative b d1 d2 = .ok a := by
    obtain ⟨p, hp, he⟩ := Res.bind_ok hr
    rw [State.relative, read hp]
    exact he
  cases m with
  | frameRel d1 d2 => exact relative h
  | stackRel d1 d2 => exact relative h
  | staticRel d1 d2 => exact relative h
  | ext d1 d2 =>
    obtain ⟨p, hp, he⟩ := Res.bind_ok h
    obtain ⟨q, hq, hp⟩ := Res.bind_ok hp
    obtain ⟨b, hb, hp⟩ := Res.bind_ok hp
    have hlink : (s.drawn c).linkEntry d1.value = .ok p := by
      rw [State.linkEntry, show (s.drawn c).mod = s.mod from rfl, hq, Res.ok_bind, read hb, Res.ok_bind]
      exact read hp
    rw [modeAddr, hlink]
    exact he
  | _ => exact h

theorem locate_drawn {b : Bank} {s0 s : State} {c : Nat} {g : Gen} {l : Loc} (h : locate b s0 s g = .ok l) :
    locate b s0 (s.drawn c) g = .ok l := by
  cases g with
  | mode m =>
    by_cases hm : ∃ k, m = .reg k
    · obtain ⟨k, rfl⟩ := hm
      exact h
    · obtain ⟨k, hk, -⟩ | ⟨a, ha, rfl⟩ := locate_bank h
      · cases hk
        exact absurd ⟨k, rfl⟩ hm
      · exact locate_of_address (fun k hk => hm ⟨k, by cases hk; rfl⟩) (modeAddr_drawn ha)
  | scaled sc m x =>
    obtain ⟨a, ha, hl⟩ := Res.bind_ok h
    obtain ⟨p, hp, he⟩ := Res.bind_ok ha
    have haddr : addrOf s0 (s.drawn c) (.scaled sc m x) = .ok a := by
      rw [addrOf, modeAddr_drawn hp]
      exact he
    cases hl
    exact locate_of_address (fun _ => nofun) haddr
  | imm v => exact h

theorem locateWrite_drawn {b : Bank} {n c : Nat} {s0 s t : State} {g : Gen} {l : Loc}
    (h : locateWrite b n s0 s g = .ok (l, t)) : locateWrite b n s0 (s.drawn c) g = .ok (l, t.drawn c) := by
  obtain ⟨rfl, hn, rfl, rfl⟩ | ⟨hg, hl, rfl⟩ := locateWrite_ok h
  · rw [← setSp_drawn]
    exact if_neg (not_lt.2 hn)
  · exact locateWrite_elsewhere hg (locate_drawn hl)

/-- MOVLF shortens a number; the sign of a zero from a negative zero is a free value drawn (R281). -/
theorem exec_movlf {src dst : Gen} {s s1 : State} {a : Nat} (hf : s.cfgF = true)
    (ha : readOp .fp 8 s s src = .ok (a, s1)) :
    ∃ (c : Nat) (g : Bool), exec (.movlf src dst) s = s.run
      (match (fpShorten g (fpUnpack .double a) s.fsr).result with
      | none => s.fpTrap (fpShorten g (fpUnpack .double a) s.fsr).fsr
      | some v => locateWrite .fp 4 s (s1.drawn c) dst >>= fun p =>
          p.2.fpDeliver (.movlf src dst) (fpShorten g (fpUnpack .double a) s.fsr).fsr 4 v p.1) := by
  have he : exec (.movlf src dst) s = execMovlf src dst s := rfl
  have hstore (t : State) (w : Dword) (v : Nat) : (writeOp .fp 4 v s t dst >>= fun s3 =>
      Except.ok (({ s3 with fsr := w } : State).advance (.movlf src dst))) =
      locateWrite .fp 4 s t dst >>= fun p => p.2.fpDeliver (.movlf src dst) w 4 v p.1 := by
    rw [writeOp]
    cases locateWrite .fp 4 s t dst <;> rfl
  by_cases hz : fpUnpack .double a = .zero true
  · refine ⟨s1.freeCount + 1, decide ((s1.freshNat 1).1 = 1), ?_⟩
    rw [he, execMovlf, fpGuard_body hf, ha]
    simp only [Res.ok_bind, if_pos hz, hstore]
    rfl
  · refine ⟨s1.freeCount, decide ((0 : Nat) = 1), ?_⟩
    rw [he, execMovlf, fpGuard_body hf, ha]
    simp only [Res.ok_bind, if_neg hz, hstore]
    rfl

theorem movlfClaim_of {src dst : Gen} {pre : Nat → Dword → Prop} {rel : Nat → Dword → Nat → Dword → Prop}
    (h : ∀ a v g, pre a v → ∃ (w : Dword) (r : Nat), fpShorten g (fpUnpack .double a) v = ⟨w, some r⟩ ∧
      r < 256 ^ 4 ∧ rel a v r w) : FpMoveClaimIf pre (.movlf src dst) .fp .fp 8 4 src dst rel :=
  fpMoveClaim_of nofun (fun _ => .inl rfl) fun {s s1 s2 a l} hf ha hl hp => by
    obtain ⟨c, g, hexec⟩ := exec_movlf (dst := dst) hf ha
    obtain ⟨w, r, hout, hr, hrel⟩ := h a s.fsr g hp
    refine ⟨c, w, r, ?_, hr, hrel⟩
    rw [hexec, hout]
    dsimp only
    rw [locateWrite_drawn hl]
    rfl

theorem movlfTrapClaim_of {src dst : Gen} {pre : Nat → Dword → Prop} {tt : Nat} {uf inexact : Bool}
    (h : ∀ a v g, pre a v → ∃ w : Dword, fpShorten g (fpUnpack .double a) v = ⟨w, none⟩ ∧ FsrUpdated v w tt uf inexact) :
    FpMoveTrapClaim pre (.movlf src dst) .fp 8 src tt uf inexact := by
  intro s s1 a hf ha hp
  obtain ⟨c, g, hexec⟩ := exec_movlf (dst := dst) hf ha
  obtain ⟨w, hout, hw⟩ := h a s.fsr g hp
  refine ⟨w, hw, ?_⟩
  rw [hexec, hout]
  exact run_fpTrap s w

/-- Shortening a long number rounds it. -/
theorem fpShorten_rounded {a : Nat} (g : Bool) (v : Dword) (ha : ¬ Reserved .double a) (h0 : fpNumber .double a ≠ 0) :
    FpRounded .single (fpNumber .double a) v (fpShorten g (fpUnpack .double a) v) := by
  obtain ⟨m, e, he, hm, hn⟩ := fpUnpack_num ha h0
  rw [he, hn]
  exact fpResult_rounded v hm one_pos (by rw [Nat.cast_one, div_one])

/-- Settles O56: a zero result has the sign the operation gives it, and an underflow is a zero too. -/
theorem floatZeros : Obligations.FloatZeros := by
  intro f src dst
  refine ⟨?_, ?_, ?_, ?_, ?_, fun ins val h => ?_⟩
  · refine fpClaim_of (fun _ => rfl) fun a b v ⟨ha, hb, h0⟩ => ?_
    obtain ⟨hva, hna, hsa⟩ := fpUnpack_valid ha
    obtain ⟨hvb, hnb, hsb⟩ := fpUnpack_valid hb
    rw [(fpAdd_spec v hva hvb).2 (by rw [hna, hnb]; exact h0), hna, hsa, hsb]
    exact fpExact_zero f _ v
  · refine fpClaim_of (fun _ => rfl) fun a b v ⟨ha, hb, h0⟩ => ?_
    obtain ⟨hva, hna, hsa⟩ := fpUnpack_valid ha
    obtain ⟨hvb, hnb, hsb⟩ := fpUnpack_valid hb
    obtain ⟨hvn, hnn, hsn⟩ := fpNegate_valid hva
    rw [(fpAdd_spec v hvn hvb).2 (by rw [hnn, hna, hnb, ← sub_eq_add_neg]; exact h0), hnn, hsn, hna, hsa, hsb]
    have hsign : (if -fpNumber f a = 0 ∧ (!negative f a) = negative f b then !negative f a else zeroSumNeg v) =
        if fpNumber f a = 0 ∧ negative f a ≠ negative f b then negative f b else decide (v.toNat / 128 % 4 = 3) := by
      change _ = if fpNumber f a = 0 ∧ negative f a ≠ negative f b then negative f b else zeroSumNeg v
      cases negative f a <;> cases negative f b <;> simp
    rw [hsign]
    exact fpExact_zero f _ v
  · refine fpClaim_of (fun _ => rfl) fun a b v ⟨ha, hb, h0⟩ => ?_
    obtain ⟨hva, hna, hsa⟩ := fpUnpack_valid ha
    obtain ⟨hvb, hnb, hsb⟩ := fpUnpack_valid hb
    rw [fpMul_zero v hva hvb (by rw [hna, hnb]; exact h0), hsa, hsb]
    exact fpExact_zero f _ v
  · refine fpClaim_of (fun _ => rfl) fun a b v ⟨ha, hb, ha0, hb0⟩ => ?_
    obtain ⟨hva, hna, hsa⟩ := fpUnpack_valid ha
    obtain ⟨hvb, hnb, hsb⟩ := fpUnpack_valid hb
    rw [fpDiv_zero v hva hvb (by rw [hna]; exact ha0) (by rw [hnb]; exact hb0), hsa, hsb]
    exact fpExact_zero f _ v
  · refine movlfClaim_of fun a v g ⟨ha, h0, hlt, huen⟩ => ?_
    obtain ⟨w, hout, hw⟩ := (fpShorten_rounded g v ha h0).underflows hlt huen
    exact ⟨w, 0, hout, by decide, rfl, hw⟩
  · obtain ⟨op, hop, he⟩ := exec_fpOperation h
    refine fpClaim_of he fun a b v ⟨ha, hb, h0, hlt, huen⟩ => ?_
    obtain ⟨w, hout, hw⟩ := (hop.rounded a b v ha hb h0).underflows hlt huen
    exact ⟨w, 0, hout, Nat.pow_pos (by decide), rfl, hw⟩

/-! ## NEGf, ABSf, MOVf and CMPf (R274 to R277) -/

/-- A sign bit above a value. -/
theorem testBit_signed {n x : Nat} (hx : x < 2 ^ n) (k : Nat) : (2 ^ n + x).testBit k = if k = n then true else x.testBit k := by
  obtain h | rfl | h := lt_trichotomy k n
  · rw [if_neg h.ne, Nat.testBit_two_pow_add_gt h]
  · rw [if_pos rfl, Nat.testBit_two_pow_add_eq, Nat.testBit_lt_two_pow hx]
    rfl
  · have h2 : 2 ^ n + x < 2 ^ k := by
      have : 2 ^ (n + 1) ≤ 2 ^ k := Nat.pow_le_pow_right (by decide) h
      rw [Nat.pow_succ] at this
      omega
    rw [if_neg h.ne', Nat.testBit_lt_two_pow h2, Nat.testBit_lt_two_pow (hx.trans (Nat.pow_lt_pow_right (by decide) h))]

/-- A pattern is its sign bit and what is below it. -/
theorem pattern_sign {f : FpLen} {a : Nat} (ha : a < 256 ^ f.bytes) :
    ∃ x < 2 ^ (fracBits f + expBits f), a = (if fpSign f a then 2 ^ (fracBits f + expBits f) + x else x) := by
  rw [pow_fpBytes, Nat.pow_succ] at ha
  rw [fpSign, fpSignBit_eq]
  obtain h | h := lt_or_ge a (2 ^ (fracBits f + expBits f))
  · refine ⟨a, h, ?_⟩
    rw [Nat.div_eq_of_lt h]
    rfl
  · refine ⟨a - 2 ^ (fracBits f + expBits f), by omega, ?_⟩
    have hdiv : a / 2 ^ (fracBits f + expBits f) = 1 := Nat.div_eq_of_lt_le (by omega) (by omega)
    rw [hdiv, decide_eq_true rfl, if_pos rfl]
    omega

theorem fpFlip_spec {f : FpLen} {a : Nat} (ha : a < 256 ^ f.bytes) : fpFlip f a < 256 ^ f.bytes ∧
    ∀ k, (fpFlip f a).testBit k = if k = fracBits f + expBits f then !a.testBit k else a.testBit k := by
  obtain ⟨x, hx, he⟩ := pattern_sign ha
  have hxtop : x.testBit (fracBits f + expBits f) = false := Nat.testBit_lt_two_pow hx
  rw [fpFlip, fpSignBit_eq, pow_fpBytes, Nat.pow_succ]
  by_cases hs : fpSign f a = true
  · rw [if_pos hs] at he ⊢
    rw [he, Nat.add_sub_cancel_left]
    refine ⟨by omega, fun k => ?_⟩
    rw [testBit_signed hx]
    by_cases hk : k = fracBits f + expBits f
    · simp [hk, hxtop]
    · simp [hk]
  · rw [if_neg hs] at he ⊢
    rw [he, Nat.add_comm]
    refine ⟨by omega, fun k => ?_⟩
    rw [testBit_signed hx]
    by_cases hk : k = fracBits f + expBits f
    · simp [hk, hxtop]
    · simp [hk]

theorem clearSign_spec {f : FpLen} {a : Nat} (ha : a < 256 ^ f.bytes) : a % 2 ^ fpSignBit f < 256 ^ f.bytes ∧
    ∀ k, (a % 2 ^ fpSignBit f).testBit k = if k = fracBits f + expBits f then false else a.testBit k := by
  refine ⟨(Nat.mod_le _ _).trans_lt ha, fun k => ?_⟩
  rw [fpSignBit_eq, Nat.testBit_mod_two_pow]
  rw [pow_fpBytes] at ha
  obtain h | rfl | h := lt_trichotomy k (fracBits f + expBits f)
  · simp [h, h.ne]
  · simp
  · rw [if_neg h.ne', Nat.testBit_lt_two_pow (ha.trans_le (Nat.pow_le_pow_right (by decide) h)), Bool.and_false]

/-- The flags CMPf writes. -/
def fpCmpFlags (z n : Bool) (w : Word) : Word := putFlag (putFlag (putFlag w .z z) .n n) .l false

/-- A state with FSR and the flags of CMPf written. -/
def State.fpCompared (s : State) (fsr : Dword) (z n : Bool) : State :=
  { s with fsr := fsr, psr := fpCmpFlags z n s.psr }

theorem exec_cmpf {f : FpLen} {src1 src2 : Gen} {s s1 s2 : State} {a b : Nat} (hf : s.cfgF = true)
    (ha : readOp .fp f.bytes s s src1 = .ok (a, s1)) (hb : readOp .fp f.bytes s s1 src2 = .ok (b, s2)) :
    exec (.cmpf f src1 src2) s = s.run (if fpReserved f a || fpReserved f b then s.fpTrap (fsrWithTt s.fsr 5)
      else .ok ((s2.fpCompared (fsrWithTt s.fsr 0) (decide (fpValue (fpUnpack f a) = fpValue (fpUnpack f b)))
        (decide (fpValue (fpUnpack f b) < fpValue (fpUnpack f a)))).advance (.cmpf f src1 src2))) := by
  change execCmpf f src1 src2 s = _
  simp only [execCmpf, fpGuard_body hf, ha, hb, Res.ok_bind, fpCompare_value]
  rfl

/-- Settles O58: the sign bit is the top bit of the pattern, and the comparison is of the numbers. -/
theorem floatMovesCompare : Obligations.FloatMovesCompare := by
  intro f src dst
  refine ⟨?_, ?_, ?_, fun s s1 s2 a b hf ha hb hva hvb => ?_⟩
  · refine fpMoveClaim_of_shape nofun (fun _ => fpBytes_cases f) (fun _ => rfl) (fun a v hlt hp => ?_) nofun
      fun _ => fpBytes_cases f
    obtain ⟨hr, hbits⟩ := fpFlip_spec hlt
    exact ⟨_, _, if_neg (mt fpReserved_iff.1 hp), hr, hbits, fsrUpdated_tt v (by decide)⟩
  · refine fpMoveClaim_of_shape nofun (fun _ => fpBytes_cases f) (fun _ => rfl) (fun a v hlt hp => ?_) nofun
      fun _ => fpBytes_cases f
    obtain ⟨hr, hbits⟩ := clearSign_spec hlt
    exact ⟨_, _, if_neg (mt fpReserved_iff.1 hp), hr, hbits, fsrUpdated_tt v (by decide)⟩
  · exact fpMoveClaim_of_shape nofun (fun _ => fpBytes_cases f) (fun _ => rfl)
      (fun a v hlt _ => ⟨_, _, rfl, hlt, rfl, fsrUpdated_tt v (by decide)⟩) nofun fun _ => fpBytes_cases f
  · obtain ⟨-, hna, -⟩ := fpUnpack_valid hva
    obtain ⟨-, hnb, -⟩ := fpUnpack_valid hvb
    obtain ⟨-, -, -, -, hpc, -, -, -⟩ := readOp_frame ha
    obtain ⟨-, -, -, -, hpc', -, -, -⟩ := readOp_frame hb
    have hres : ¬ (fpReserved f a || fpReserved f b) = true := by
      rw [Bool.or_eq_true, fpReserved_iff, fpReserved_iff]
      tauto
    obtain ⟨u, hu⟩ : ∃ u, u = s2.fpCompared (fsrWithTt s.fsr 0) (decide (fpNumber f a = fpNumber f b))
        (decide (fpNumber f b < fpNumber f a)) := ⟨_, rfl⟩
    have hpsr : u.psr = fpCmpFlags (decide (fpNumber f a = fpNumber f b)) (decide (fpNumber f b < fpNumber f a)) s2.psr := by
      rw [hu]
      rfl
    refine ⟨u.advance (.cmpf f src dst), ?_, ?_, ?_, ?_, ?_, fun k hk => ?_, ?_⟩
    · rw [exec_cmpf hf ha hb, if_neg hres, hna, hnb, ← hu]
      exact run_ok _ _
    · rw [State.advance_flag, State.flag, hpsr, fpCmpFlags, flag_putFlag_other _ _ (by decide),
        flag_putFlag_other _ _ (by decide), flag_putFlag_same]
    · rw [State.advance_flag, State.flag, hpsr, fpCmpFlags, flag_putFlag_other _ _ (by decide), flag_putFlag_same]
    · rw [State.advance_flag, State.flag, hpsr, fpCmpFlags, flag_putFlag_same]
    · rw [State.advance_fsr, hu]
      exact fsrUpdated_tt s.fsr (by decide)
    · simp only [List.mem_cons, List.not_mem_nil, or_false, not_or] at hk
      obtain ⟨hz, hn, hl⟩ := hk
      rw [State.advance_flag, State.flag, hpsr, fpCmpFlags, flag_putFlag_other _ _ hl, flag_putFlag_other _ _ hn,
        flag_putFlag_other _ _ hz]
      rfl
    · refine ⟨?_, ?_, ?_, ?_, ?_, ?_, ?_, advance_next_of (by rw [hu]; exact hpc'.trans hpc) _⟩ <;>
        simp [hu, State.fpCompared, SameRegs, SameFpRegs, SameMemory, SameStack, SameBases, SameSystem]

end Sys2Proof.Machine
end

section
/-! PROOFS. Conversions and traps of the floating-point instructions (42_floating_point.md sections 2 and 5). -/
namespace Sys2Proof.Machine

/-! ## Numbers of a format -/

/-- A number of the format is in its range. -/
theorem fpNumber_inRange {f : FpLen} {p : Nat} (hp : ¬ Reserved f p) (h0 : fpNumber f p ≠ 0) (mode : Nat) :
    fpLeast f ≤ |fpNumber f p| ∧ ¬ RoundsOut f mode (fpNumber f p) := by
  obtain ⟨-, -, hz⟩ | ⟨m, ex, -, hlo, hhi, hemin, hemax, hn⟩ := fpUnpack_cases hp
  · exact absurd hz h0
  have hu := ulp_pos f ex
  have hub := ulp_pos f (expBias f)
  have habs : |fpNumber f p| = m * ulp f ex := by
    rw [hn, abs_signOf_mul, abs_of_nonneg (by positivity), ulp]
  have hlo' : (2 : ℚ) ^ fracBits f ≤ m := by exact_mod_cast hlo
  have hhi' : (m : ℚ) ≤ 2 ^ (fracBits f + 1) - 1 := by
    rw [le_sub_iff_add_le]
    exact_mod_cast hhi
  have hw : (1 : ℚ) ≤ 2 ^ fracBits f := one_le_pow₀ one_le_two
  have hgreat : |fpNumber f p| ≤ fpGreatest f := by
    rw [habs, fpGreatest_eq]
    refine mul_le_mul hhi' (zpow_le_zpow_right₀ one_le_two (by omega)) hu.le ?_
    rw [pow_succ]
    linarith
  refine ⟨?_, ?_⟩
  · calc fpLeast f ≤ 2 ^ ex := zpow_le_zpow_right₀ one_le_two (by omega)
      _ = 2 ^ fracBits f * ulp f ex := (pow_mul_ulp f ex).symm
      _ ≤ |fpNumber f p| := habs ▸ mul_le_mul_of_nonneg_right hlo' hu.le
  · rintro (h | ⟨-, h⟩ | ⟨-, h⟩ | ⟨-, h⟩)
    · rw [zpow_add₀ two_ne_zero, zpow_one, ← pow_mul_ulp] at h
      rw [fpGreatest_eq, pow_succ] at hgreat
      nlinarith
    · rw [roundsOut_half_eq] at h
      rw [fpGreatest_eq] at hgreat
      nlinarith
    · exact absurd ((h.trans_le (le_abs_self _)).trans_le hgreat) (lt_irrefl _)
    · have := neg_le_abs (fpNumber f p)
      linarith

/-- Significand and exponent in range make a number of the format. -/
theorem exists_fpNumber {f : FpLen} {ex : Int} {q : Nat} (neg : Bool) (hlo : 2 ^ fracBits f ≤ q)
    (hhi : q < 2 ^ (fracBits f + 1)) (hemin : 1 - expBias f ≤ ex) (hemax : ex ≤ expBias f) :
    ∃ p, p < 256 ^ f.bytes ∧ ¬ Reserved f p ∧ fpNumber f p = signOf neg * (q * 2 ^ (ex - fracBits f)) := by
  obtain ⟨hshort, hvalid, -, -, hn, -⟩ := fpPack_spec neg hlo hhi hemin hemax
  exact ⟨_, hshort, hvalid, hn⟩

/-- A number of the format is delivered exactly. -/
theorem FpRounded.exact {f : FpLen} {x : ℚ} {v : Dword} {out : FpOut} (h : FpRounded f x v out) (h0 : x ≠ 0)
    (hx : ∃ p, p < 256 ^ f.bytes ∧ ¬ Reserved f p ∧ fpNumber f p = x) :
    ∃ p, out = fpExact v p ∧ p < 256 ^ f.bytes ∧ ¬ Reserved f p ∧ fpNumber f p = x := by
  obtain ⟨p, -, hp, rfl⟩ := hx
  obtain ⟨hleast, hrange⟩ := fpNumber_inRange hp h0 (fsrRm v)
  obtain ⟨r, ⟨hshort, hvalid, -⟩, ⟨heq, hout⟩ | ⟨hne, -⟩⟩ := h.inRange hleast hrange
  · exact ⟨r, hout, hshort, hvalid, heq⟩
  · exact absurd rfl (hne p hp)

/-- The sign bit of a number other than zero is its sign. -/
theorem negative_of_number {f : FpLen} {v : Nat} (h : ¬ Reserved f v) (h0 : fpNumber f v ≠ 0) :
    negative f v = decide (fpNumber f v < 0) := by
  obtain ⟨m, e, -, hm, hn⟩ := fpUnpack_num h h0
  have hpos : (0 : ℚ) < m * 2 ^ e := by
    have : (0 : ℚ) < m := by exact_mod_cast hm
    positivity
  have hiff := signOf_mul_neg_iff (neg := negative f v) hpos
  rw [← hn] at hiff
  rw [Bool.eq_iff_iff, decide_eq_true_iff, hiff]

/-! ## MOVif (R278) -/

/-- The conversion of MOVif. -/
def fpFromInt (f : FpLen) (x : Int) (fsr : Dword) : FpOut := if x = 0 then fpExact fsr 0 else fpDeliver f x 0 fsr

theorem exec_movif (i : IntLen) (f : FpLen) (src dst : Gen) (s : State) : exec (.movif i f src dst) s =
    s.run (fpUnary .int .fp i.bytes f.bytes (.movif i f src dst) src dst (fun v fsr => fpFromInt f (signed i.bits v) fsr) s) := by
  have hop : (fun v fsr => fpFromInt f (signed i.bits v) fsr) = fun (v : Nat) (fsr : Dword) =>
      if sext i.bits v = 0 then fpExact fsr 0
      else fpResult f (decide (sext i.bits v < 0)) (sext i.bits v).natAbs 1 0 fsr := by
    funext v fsr
    rw [fpFromInt, sext_eq_signed i.bits_pos]
    by_cases h : signed i.bits v = 0
    · rw [if_pos h, if_pos h]
    · rw [if_neg h, if_neg h, fpDeliver, if_neg h]
  rw [hop]
  rfl

theorem fpFromInt_rounded {f : FpLen} {x : Int} (v : Dword) (h : x ≠ 0) : FpRounded f x v (fpFromInt f x v) := by
  have hr := fpDeliver_rounded (f := f) (k := 0) (fsr := v) h
  rw [zpow_zero, mul_one] at hr
  rw [fpFromInt, if_neg h]
  exact hr

/-- An integer of at most 32 bits is in the range of both formats. -/
theorem signed_abs_lt (i : IntLen) (a : Nat) : |signed i.bits a| < 2 ^ 32 := by
  have h1 := BitVec.two_mul_toInt_lt (x := BitVec.ofNat i.bits a)
  have h2 := BitVec.le_two_mul_toInt (x := BitVec.ofNat i.bits a)
  have hb : (2 : Int) ^ i.bits ≤ 2 ^ 32 := by cases i <;> decide
  rw [signed, abs_lt]
  omega

theorem int_inRange {f : FpLen} {x : Int} (h0 : x ≠ 0) (hx : |x| < 2 ^ 32) (mode : Nat) :
    fpLeast f ≤ |(x : ℚ)| ∧ ¬ RoundsOut f mode x := by
  have hbias := expBias_pos f
  have h1 : (1 : ℚ) ≤ |(x : ℚ)| := by exact_mod_cast Int.one_le_abs h0
  have h2 : |(x : ℚ)| < 2 ^ (32 : Int) := by exact_mod_cast hx
  refine ⟨le_trans ?_ h1, fun h => ?_⟩
  · rw [← zpow_zero (2 : ℚ)]
    exact zpow_le_zpow_right₀ one_le_two (by omega)
  · have h3 := h.large.trans_lt h2
    have h4 : (2 : ℚ) ^ (32 : Int) ≤ 2 ^ expBias f := zpow_le_zpow_right₀ one_le_two (by omega)
    linarith

/-- An integer of at most 32 bits is a number of the long format. -/
theorem exists_double_of_int {x : Int} (h0 : x ≠ 0) (hx : |x| < 2 ^ 32) :
    ∃ p, p < 256 ^ FpLen.double.bytes ∧ ¬ Reserved .double p ∧ fpNumber .double p = x := by
  have hpos : x.natAbs ≠ 0 := Int.natAbs_ne_zero.2 h0
  obtain ⟨k, hk⟩ : ∃ k, k = Nat.log2 x.natAbs := ⟨_, rfl⟩
  have hlo := Nat.log2_self_le hpos
  have hhi : x.natAbs < 2 ^ (Nat.log2 x.natAbs + 1) := Nat.lt_log2_self
  have hk32 : k < 32 := by
    rw [hk, Nat.log2_lt hpos]
    rw [← Int.natCast_natAbs] at hx
    exact_mod_cast hx
  rw [← hk] at hlo hhi
  have hpow : 2 ^ k * 2 ^ (52 - k) = 2 ^ 52 := by rw [← Nat.pow_add, Nat.add_sub_cancel' (by omega)]
  obtain ⟨p, hshort, hvalid, hn⟩ := exists_fpNumber (f := .double) (ex := k) (q := x.natAbs * 2 ^ (52 - k))
    (decide (x < 0)) (by
      show 2 ^ 52 ≤ _
      rw [← hpow]
      exact Nat.mul_le_mul_right _ hlo) (by
      show _ < 2 ^ (52 + 1)
      rw [Nat.pow_succ, ← hpow, mul_right_comm]
      exact Nat.mul_lt_mul_of_pos_right (by rwa [Nat.pow_succ] at hhi) (Nat.two_pow_pos _))
    (by show 1 - 1023 ≤ (k : Int); omega) (by show (k : Int) ≤ 1023; omega)
  refine ⟨p, hshort, hvalid, hn.trans ?_⟩
  have hcast : ((x.natAbs * 2 ^ (52 - k) : Nat) : ℚ) * 2 ^ ((k : Int) - fracBits .double) = |(x : ℚ)| := by
    have he : ((k : Int) - fracBits .double) = -((52 - k : Nat) : Int) := by
      show (k : Int) - 52 = _
      omega
    rw [he, zpow_neg, zpow_natCast]
    push_cast
    rw [mul_inv_cancel_right₀ (by positivity), Nat.cast_natAbs, Int.cast_abs]
  have hs := signOf_mul_abs (x : ℚ)
  have hneg : decide ((x : ℚ) < 0) = decide (x < 0) := by simp
  rw [hneg] at hs
  rw [hcast, hs]

/-! ## MOVFL (R282) -/

/-- Every short number is a long one. -/
theorem exists_double_of_single {a : Nat} (ha : ¬ Reserved .single a) (h0 : fpNumber .single a ≠ 0) :
    ∃ p, p < 256 ^ FpLen.double.bytes ∧ ¬ Reserved .double p ∧ fpNumber .double p = fpNumber .single a := by
  obtain ⟨-, -, hz⟩ | ⟨m, ex, -, hlo, hhi, hemin, hemax, hn⟩ := fpUnpack_cases ha
  · exact absurd hz h0
  have hlo' : 2 ^ 23 ≤ m := hlo
  have hhi' : m < 2 ^ 24 := hhi
  have hemin' : 1 - 127 ≤ ex := hemin
  have hemax' : ex ≤ 127 := hemax
  obtain ⟨p, hshort, hvalid, hp⟩ := exists_fpNumber (f := .double) (ex := ex) (q := m * 2 ^ 29) (negative .single a)
    (by show 2 ^ 52 ≤ _; omega) (by show _ < 2 ^ 53; omega) (by show 1 - 1023 ≤ ex; omega) (by show ex ≤ 1023; omega)
  refine ⟨p, hshort, hvalid, hp.trans ?_⟩
  have hexp : ex - (fracBits .single : Nat) = 29 + (ex - (fracBits .double : Nat)) := by
    show ex - 23 = 29 + (ex - 52)
    omega
  rw [hn, hexp, zpow_add₀ two_ne_zero]
  push_cast
  rw [← mul_assoc (m : ℚ)]

/-- Lengthening a short number is exact and keeps its sign, a zero's too. -/
theorem fpLengthen_exact {a : Nat} (v : Dword) (ha : ¬ Reserved .single a) :
    ∃ r, fpLengthen (fpUnpack .single a) v = fpExact v r ∧ r < 256 ^ 8 ∧ ¬ Reserved .double r ∧
      fpNumber .double r = fpNumber .single a ∧ negative .double r = negative .single a := by
  by_cases h0 : fpNumber .single a = 0
  · obtain ⟨hshort, -, -, hneg⟩ := fpZero_spec .double (negative .single a)
    obtain ⟨hvalid, hzero⟩ := fpZero_valid .double (negative .single a)
    refine ⟨fpZero .double (negative .single a), ?_, hshort, hvalid, hzero.trans h0.symm, hneg⟩
    rw [fpUnpack_zero ha h0]
    rfl
  · obtain ⟨m, e, he, hm, hn⟩ := fpUnpack_num ha h0
    have hr : FpRounded .double (fpNumber .single a) v (fpLengthen (fpUnpack .single a) v) := by
      rw [he, hn]
      exact fpResult_rounded v hm one_pos (by rw [Nat.cast_one, div_one])
    obtain ⟨r, hout, hshort, hvalid, heq⟩ := hr.exact h0 (exists_double_of_single ha h0)
    refine ⟨r, hout, hshort, hvalid, heq, ?_⟩
    rw [negative_of_number hvalid (by rw [heq]; exact h0), negative_of_number ha h0, heq]

end Sys2Proof.Machine
end

section
/-! PROOFS. Conversions to integers, and the exceptional conditions (42_floating_point.md sections 2 and 5). -/
namespace Sys2Proof.Machine

/-! ## Rounding to an integer (R279, R280, R283) -/

/-- A whole magnitude with its sign. -/
def signedNat (neg : Bool) (q : Nat) : Int := if neg then -(q : Int) else (q : Int)

theorem signedNat_cast (neg : Bool) (q : Nat) : (signedNat neg q : ℚ) = signOf neg * q := by
  cases neg <;> simp [signedNat, signOf]

/-- A fixed rounding mode gives the integer that a relation describes, and the relation describes one integer only. -/
structure IntRounding (rm : Nat) (rnd : ℚ → Int → Prop) : Prop where
  chosen : ∀ (neg : Bool) (q r d : Nat), r < d →
    rnd (signOf neg * (q + (r : ℚ) / d)) (signedNat neg (if roundUp rm neg q r d then q + 1 else q))
  unique : ∀ (x : ℚ) (n k : Int), rnd x n → rnd x k → n = k
  ofInt : ∀ k : Int, rnd k k

theorem nearestInt_unique {x : ℚ} {n k : Int} (hn : nearestInt x n) (hk : nearestInt x k) : n = k := by
  obtain ⟨hn, hne⟩ := hn
  obtain ⟨hk, hke⟩ := hk
  by_contra hne'
  have hn' := abs_le.1 hn
  have hk' := abs_le.1 hk
  wlog hlt : n < k generalizing n k
  · exact this hk hke hn hne (Ne.symm hne') hk' hn' (by omega)
  have hstep : (n : ℚ) + 1 ≤ k := by exact_mod_cast hlt
  have hx : x = n + 1 / 2 := by linarith
  have hkn : (k : ℚ) = n + 1 := by linarith
  have hkn' : k = n + 1 := by exact_mod_cast hkn
  have h1 := hne (by rw [hx, add_sub_cancel_left]; norm_num)
  have h2 := hke (by rw [hx, hkn, add_sub_add_left_eq_sub]; norm_num)
  omega

theorem nearestInt_rounding : IntRounding 0 nearestInt where
  unique _ _ _ := nearestInt_unique
  ofInt k := ⟨by rw [sub_self, abs_zero]; norm_num, fun h => by rw [sub_self, abs_zero] at h; norm_num at h⟩
  chosen neg q r d hrd := by
    obtain ⟨hq1, htie⟩ := roundUp_nearest (neg := neg) (q := q) hrd
    obtain ⟨q1, hq⟩ : ∃ q1, q1 = if roundUp 0 neg q r d then q + 1 else q := ⟨_, rfl⟩
    have hd : (0 : ℚ) < d := by exact_mod_cast (Nat.zero_le r).trans_lt hrd
    have ht0 : 0 ≤ (r : ℚ) / d := by positivity
    have ht1 : (r : ℚ) / d < 1 := by rw [div_lt_one hd]; exact_mod_cast hrd
    rw [← hq] at hq1 htie ⊢
    rw [nearestInt, signedNat_cast, ← mul_sub, abs_signOf_mul]
    have heven : q1 % 2 = 0 → signedNat neg q1 % 2 = 0 := by
      intro h
      cases neg
      · exact (by omega : (q1 : Int) % 2 = 0)
      · exact (by omega : -(q1 : Int) % 2 = 0)
    obtain ⟨he, ht⟩ | ⟨he, ht⟩ := hq1
    · rw [he, add_sub_cancel_left, abs_of_nonneg ht0]
      exact ⟨by linarith, fun h => heven (htie (by linarith))⟩
    · rw [he, add_sub_add_left_eq_sub, abs_of_nonpos (by linarith)]
      exact ⟨by linarith, fun h => heven (htie (by linarith))⟩

theorem truncated_rounding : IntRounding 1 (fun x n => n = truncated x) where
  unique _ _ _ hn hk := hn.trans hk.symm
  ofInt k := by
    rw [truncated]
    split <;> simp
  chosen neg q r d hrd := by
    have hd : (0 : ℚ) < d := by exact_mod_cast (Nat.zero_le r).trans_lt hrd
    have ht0 : 0 ≤ (r : ℚ) / d := by positivity
    have ht1 : (r : ℚ) / d < 1 := by rw [div_lt_one hd]; exact_mod_cast hrd
    have hfloor : ⌊(q : ℚ) + (r : ℚ) / d⌋ = q := by
      rw [Int.floor_eq_iff]
      exact ⟨by push_cast; linarith, by push_cast; linarith⟩
    rw [show roundUp 1 neg q r d = false from rfl, if_neg Bool.false_ne_true, truncated]
    cases neg
    · rw [signOf, if_neg Bool.false_ne_true, one_mul, if_pos (by positivity), hfloor]
      rfl
    · rw [signOf, if_pos rfl, neg_one_mul]
      split
      · next h =>
        have hz : (q : ℚ) + (r : ℚ) / d = 0 := le_antisymm (by linarith) (by positivity)
        rw [hz, Int.floor_zero] at hfloor
        rw [hz, neg_zero, Int.floor_zero, signedNat, ← hfloor]
        rfl
      · rw [Int.ceil_neg, hfloor]
        rfl

theorem floor_rounding : IntRounding 3 (fun x n => n = ⌊x⌋) where
  unique _ _ _ hn hk := hn.trans hk.symm
  ofInt k := (Int.floor_intCast k).symm
  chosen neg q r d hrd := by
    have hd : (0 : ℚ) < d := by exact_mod_cast (Nat.zero_le r).trans_lt hrd
    have ht0 : 0 ≤ (r : ℚ) / d := by positivity
    have ht1 : (r : ℚ) / d < 1 := by rw [div_lt_one hd]; exact_mod_cast hrd
    symm
    rw [Int.floor_eq_iff, signedNat_cast]
    cases neg
    · simp only [roundUp, Bool.false_and, Bool.false_eq_true, if_false, signOf, one_mul]
      exact ⟨by linarith, by linarith⟩
    · by_cases hr : r = 0
      · simp [roundUp, signOf, hr]
      · have hpos : 0 < (r : ℚ) / d := by
          have : (0 : ℚ) < r := by exact_mod_cast Nat.pos_of_ne_zero hr
          positivity
        simp only [roundUp, Bool.true_and, decide_eq_true_eq, ne_eq, hr, not_false_eq_true, if_true, signOf]
        push_cast
        exact ⟨by linarith, by linarith⟩

/-- A magnitude with a part left over is no integer. -/
theorem not_int_of_part {neg : Bool} {q r d : Nat} (hr : r ≠ 0) (hrd : r < d) (k : Int) :
    signOf neg * (q + (r : ℚ) / d) ≠ k := by
  intro h
  have hd : (0 : ℚ) < d := by exact_mod_cast (Nat.zero_le r).trans_lt hrd
  have ht0 : 0 < (r : ℚ) / d := by
    have : (0 : ℚ) < r := by exact_mod_cast Nat.pos_of_ne_zero hr
    positivity
  have ht1 : (r : ℚ) / d < 1 := by rw [div_lt_one hd]; exact_mod_cast hrd
  have habs := congrArg abs h
  rw [abs_signOf_mul, abs_of_nonneg (by positivity), ← Int.cast_abs] at habs
  have h1 : (q : ℚ) < (|k| : Int) := by linarith
  have h2 : ((|k| : Int) : ℚ) < q + 1 := by linarith
  have h1' : (q : Int) < |k| := by exact_mod_cast h1
  have h2' : |k| < (q : Int) + 1 := by exact_mod_cast h2
  omega

/-- A number converted by a fixed mode: the integer, and whether the number was another (R264, R279). -/
theorem fpConvert_spec {rm : Nat} {rnd : ℚ → Int → Prop} (hrm : IntRounding rm rnd) (i : IntLen) {v : FpVal} (fsr : Dword)
    (hv : FpValid v) : ∃ (n : Int) (inexact : Bool), rnd (fpValue v) n ∧ fpConvert rm i v fsr = fpToInt i n inexact fsr ∧
      (inexact = true ↔ ¬ ∃ k : Int, fpValue v = k) := by
  cases v with
  | reserved => exact hv.elim
  | zero x =>
    refine ⟨0, false, ?_, ?_, ⟨nofun, fun h => absurd ⟨0, Int.cast_zero.symm⟩ h⟩⟩
    · have := hrm.ofInt 0
      rwa [Int.cast_zero] at this
    · cases i <;> rfl
  | num neg m e =>
    obtain ⟨hb, hab⟩ := scaleFrac_spec (n := m) e (one_pos : 0 < 1)
    obtain ⟨⟨a, b⟩, hs⟩ : ∃ p, p = scaleFrac m 1 e := ⟨_, rfl⟩
    rw [← hs] at hb hab
    have hb' : 0 < b := hb
    have hrd : a % b < b := Nat.mod_lt _ hb'
    have hval : fpValue (.num neg m e) = signOf neg * ((a / b : Nat) + ((a % b : Nat) : ℚ) / b) := by
      rw [fpValue, ← div_eq_quot_add hb']
      dsimp only at hab
      rw [hab, Nat.cast_one, div_one]
    refine ⟨signedNat neg (if roundUp rm neg (a / b) (a % b) b then a / b + 1 else a / b), decide (a % b ≠ 0), ?_, ?_, ?_⟩
    · rw [hval]
      exact hrm.chosen neg (a / b) (a % b) b hrd
    · rw [fpConvert, ← hs]
      rfl
    · rw [decide_eq_true_iff, hval]
      refine ⟨fun h ⟨k, hk⟩ => not_int_of_part h hrd k hk, fun h hz => h ⟨signedNat neg (a / b), ?_⟩⟩
      rw [hz, Nat.cast_zero, zero_div, add_zero, signedNat_cast]

theorem exec_fpConvert {f : FpLen} {i : IntLen} {src dst : Gen} {ins : Instr} {rnd : ℚ → Int → Prop}
    (h : (ins = .roundfi f i src dst ∧ rnd = nearestInt) ∨ (ins = .truncfi f i src dst ∧ rnd = (fun x n => n = truncated x)) ∨
      (ins = .floorfi f i src dst ∧ rnd = (fun x n => n = ⌊x⌋))) :
    ∃ rm, IntRounding rm rnd ∧ ∀ s, exec ins s =
      s.run (fpUnary .fp .int f.bytes i.bytes ins src dst (fun v fsr => fpConvert rm i (fpUnpack f v) fsr) s) := by
  obtain ⟨rfl, rfl⟩ | ⟨rfl, rfl⟩ | ⟨rfl, rfl⟩ := h
  · exact ⟨0, nearestInt_rounding, fun _ => rfl⟩
  · exact ⟨1, truncated_rounding, fun _ => rfl⟩
  · exact ⟨3, floor_rounding, fun _ => rfl⟩

/-- Settles O59: the rounded and the exact deliveries, and one rule for the three roundings to an integer. -/
theorem floatConversions : Obligations.FloatConversions := by
  intro f i src dst
  have hi : i.bytes ≤ 4 := i.bytes_le
  refine ⟨?_, ?_, ?_, ?_, ?_, fun ins rnd h => ?_⟩
  · refine fpMoveClaim_of_shape nofun (fun _ => fpBytes_cases f) (exec_movif i f src dst) (fun a v _ ⟨h0, hexact⟩ => ?_)
      (fun _ => hi) nofun
    obtain ⟨hleast, hrange⟩ := int_inRange (f := f) h0 (signed_abs_lt i a) (v.toNat / 128 % 4)
    obtain ⟨w, r, hout, hr, hrounds, he, hne⟩ := (fpFromInt_rounded v h0).delivers hleast hrange hexact
    exact ⟨w, r, hout, hr, hrounds, he, hne⟩
  · refine fpMoveClaim_of_shape nofun (fun _ => fpBytes_cases f) (exec_movif i f src dst) (fun a v _ h0 => ?_)
      (fun _ => hi) nofun
    exact ⟨_, 0, if_pos h0, Nat.pow_pos (by decide), rfl, fsrUpdated_tt v (by decide)⟩
  · refine movlfClaim_of fun a v g ⟨ha, hleast, hrange, hexact⟩ => ?_
    obtain ⟨w, r, hout, hr, hrounds, he, hne⟩ :=
      (fpShorten_rounded g v ha (ne_zero_of_least hleast)).delivers hleast hrange hexact
    exact ⟨w, r, hout, hr, hrounds, he, hne⟩
  · refine movlfClaim_of fun a v g ⟨ha, h0⟩ => ?_
    obtain ⟨hshort, -, -, -⟩ := fpZero_spec .single (negative .double a && g)
    obtain ⟨hvalid, hzero⟩ := fpZero_valid .single (negative .double a && g)
    exact ⟨_, _, by rw [fpUnpack_zero ha h0]; rfl, hshort, hzero, hvalid, fsrUpdated_tt v (by decide)⟩
  · refine fpMoveClaim_of_shape nofun (fun _ => .inr rfl) (fun _ => rfl) (fun a v _ ha => ?_) nofun fun _ => .inl rfl
    obtain ⟨r, hout, hshort, hvalid, hnum, hneg⟩ := fpLengthen_exact v ha
    exact ⟨_, r, hout, hshort, hvalid, hnum, hneg, fsrUpdated_tt v (by decide)⟩
  · obtain ⟨rm, hrm, he⟩ := exec_fpConvert h
    refine fpMoveClaim_of_shape (fun _ => hi) nofun he (fun a v _ ⟨ha, ⟨k, hk, hfit⟩, hexact⟩ => ?_) nofun
      fun _ => fpBytes_cases f
    obtain ⟨hva, hna, -⟩ := fpUnpack_valid ha
    obtain ⟨n, inexact, hn, hout, hin⟩ := fpConvert_spec hrm i v hva
    rw [hna] at hn hin
    obtain rfl : n = k := hrm.unique _ _ _ hn hk
    have hlt : wrapped i.bits n < 256 ^ i.bytes := by
      rw [i.pow_bytes]
      exact wrapped_lt ..
    have hfits : ¬ (!fits i.bits n) = true := mt (not_fits_iff n).1 hfit
    cases inexact with
    | false =>
      have hint : ∃ k : Int, fpNumber f a = k := not_not.1 (mt hin.2 nofun)
      obtain ⟨k, hk'⟩ := hint
      have hkn : k = n := hrm.unique _ _ _ (hk' ▸ hrm.ofInt k) hn
      refine ⟨_, wrapped i.bits n, ?_, hlt, n, hn, rfl, fun _ => fsrUpdated_tt v (by decide),
        fun hne => absurd (by rw [hk', hkn]) hne⟩
      rw [hout, fpToInt, if_neg hfits, if_neg Bool.false_ne_true, trunc_eq_wrapped]
      rfl
    | true =>
      have hno := hin.1 rfl
      have hien : fsrIen v = false := hexact.resolve_right hno
      refine ⟨_, wrapped i.bits n, ?_, hlt, n, hn, rfl, fun he => absurd ⟨n, he⟩ hno, fun _ => fsrUpdated_if v (by decide)⟩
      rw [hout, fpToInt, if_neg hfits, if_pos rfl, trunc_eq_wrapped, fpInexact, hien]
      rfl

end Sys2Proof.Machine
end

section
/-! PROOFS. The exceptional conditions of the floating-point instructions (42_floating_point.md section 2). -/
namespace Sys2Proof.Machine

/-- A reserved operand of the four operations, and the conditions of their results (R257 to R263). -/
theorem operation_traps {f : FpLen} {src dst : Gen} {ins : Instr} {val : ℚ → ℚ → ℚ}
    {op : FpVal → FpVal → Dword → FpOut} (hop : FpOperation f val op)
    (he : ∀ s, exec ins s = s.run (fpBinary f ins src dst op s)) :
    FpTrapClaim (fun a b _ => Reserved f a ∨ Reserved f b) ins f src dst 5 false false ∧
    FpTrapClaim (fun a b v => ¬ Reserved f a ∧ ¬ Reserved f b ∧
      RoundsOut f (v.toNat / 128 % 4) (val (fpNumber f a) (fpNumber f b))) ins f src dst 2 false false ∧
    FpTrapClaim (fun a b v => ¬ Reserved f a ∧ ¬ Reserved f b ∧ v.getLsbD 3 = true ∧
      val (fpNumber f a) (fpNumber f b) ≠ 0 ∧
      |val (fpNumber f a) (fpNumber f b)| < fpLeast f) ins f src dst 1 true false ∧
    FpTrapClaim (fun a b v => ¬ Reserved f a ∧ ¬ Reserved f b ∧ v.getLsbD 5 = true ∧
      fpLeast f ≤ |val (fpNumber f a) (fpNumber f b)| ∧
      ¬ RoundsOut f (v.toNat / 128 % 4) (val (fpNumber f a) (fpNumber f b)) ∧
      ¬ ∃ p, p < 256 ^ f.bytes ∧ ¬ Reserved f p ∧ fpNumber f p = val (fpNumber f a) (fpNumber f b)) ins f src dst
      6 false true := by
  refine ⟨fpTrapClaim_of he fun a b v h => ?_, fpTrapClaim_of he fun a b v ⟨ha, hb, hrange⟩ => ?_,
    fpTrapClaim_of he fun a b v ⟨ha, hb, huen, h0, hlt⟩ => ?_,
    fpTrapClaim_of he fun a b v ⟨ha, hb, hien, hleast, hrange, hno⟩ => ?_⟩
  · exact ⟨_, hop.invalid a b v h, fsrUpdated_tt v (by decide)⟩
  · exact (hop.rounded a b v ha hb hrange.ne_zero).overflow_traps hrange
  · exact (hop.rounded a b v ha hb h0).underflow_traps hlt huen
  · exact (hop.rounded a b v ha hb (ne_zero_of_least hleast)).inexact_traps hleast hrange hien hno

/-- DIVf by zero: of zero it is invalid, of another number a division by zero (R260, R262). -/
theorem divf_by_zero (f : FpLen) (src dst : Gen) :
    FpTrapClaim (fun a b _ => ¬ Reserved f b ∧ ¬ Reserved f a ∧ fpNumber f a = 0 ∧ fpNumber f b = 0) (.divf f src dst) f
      src dst 5 false false ∧
    FpTrapClaim (fun a b _ => ¬ Reserved f b ∧ ¬ Reserved f a ∧ fpNumber f a = 0 ∧ fpNumber f b ≠ 0) (.divf f src dst) f
      src dst 3 false false := by
  constructor <;> refine fpTrapClaim_of (fun _ => rfl) fun a b v ⟨hb, ha, ha0, hb0⟩ => ?_ <;>
    obtain ⟨hva, hna, -⟩ := fpUnpack_valid ha <;> obtain ⟨hvb, hnb, -⟩ := fpUnpack_valid hb <;>
    rw [fpDiv_by_zero v hva hvb (hna.trans ha0), hnb]
  · rw [if_pos hb0]
    exact ⟨_, rfl, fsrUpdated_tt v (by decide)⟩
  · rw [if_neg hb0]
    exact ⟨_, rfl, fsrUpdated_tt v (by decide)⟩

/-- A reserved operand is invalid where an operation looks at one operand (R257). -/
theorem invalid_move {f : FpLen} {bd : Bank} {nd : Nat} {src dst : Gen} {ins : Instr} {op : Nat → Dword → FpOut}
    (he : ∀ s, exec ins s = s.run (fpUnary .fp bd f.bytes nd ins src dst op s))
    (hop : ∀ a v, Reserved f a → op a v = fpTrapWith v 5) :
    FpMoveTrapClaim (fun a _ => Reserved f a) ins .fp f.bytes src 5 false false :=
  fpMoveTrapClaim_of he fun a v h => ⟨_, hop a v h, fsrUpdated_tt v (by decide)⟩

/-- An integer that does not fit, and an enabled inexact result of a conversion to an integer (R259, R263, R279). -/
theorem convert_traps {f : FpLen} {i : IntLen} {src dst : Gen} {ins : Instr} {rnd : ℚ → Int → Prop} {rm : Nat}
    (hrm : IntRounding rm rnd) (he : ∀ s, exec ins s =
      s.run (fpUnary .fp .int f.bytes i.bytes ins src dst (fun v fsr => fpConvert rm i (fpUnpack f v) fsr) s)) :
    FpMoveTrapClaim (fun a _ => ¬ Reserved f a ∧ ∃ n, rnd (fpNumber f a) n ∧ Overflows i.bits n) ins .fp f.bytes src
      2 false false ∧
    FpMoveTrapClaim (fun a v => ¬ Reserved f a ∧ v.getLsbD 5 = true ∧ (¬ ∃ n : Int, fpNumber f a = n) ∧
      ∃ n, rnd (fpNumber f a) n ∧ ¬ Overflows i.bits n) ins .fp f.bytes src 6 false true := by
  constructor
  · refine fpMoveTrapClaim_of he fun a v ⟨ha, k, hk, hover⟩ => ?_
    obtain ⟨hva, hna, -⟩ := fpUnpack_valid ha
    obtain ⟨n, inexact, hn, hout, -⟩ := fpConvert_spec hrm i v hva
    rw [hna] at hn
    obtain rfl : n = k := hrm.unique _ _ _ hn hk
    refine ⟨_, ?_, fsrUpdated_tt v (by decide)⟩
    rw [hout, fpToInt, if_pos ((not_fits_iff n).2 hover)]
    rfl
  · refine fpMoveTrapClaim_of he fun a v ⟨ha, hien, hno, k, hk, hfit⟩ => ?_
    obtain ⟨hva, hna, -⟩ := fpUnpack_valid ha
    obtain ⟨n, inexact, hn, hout, hin⟩ := fpConvert_spec hrm i v hva
    rw [hna] at hn hin
    obtain rfl : n = k := hrm.unique _ _ _ hn hk
    refine ⟨_, ?_, fsrUpdated_if v (by decide)⟩
    rw [hout, fpToInt, if_neg (mt (not_fits_iff n).1 hfit), if_pos (hin.2 hno), fpInexact, show fsrIen v = true from hien]
    rfl

/-- Settles O57: each condition by the shape of its instruction. -/
theorem floatTraps : Obligations.FloatTraps := by
  intro f i src dst
  refine ⟨fun ins val h => ?_, fun s s1 s2 a b hf ha hb hres => ?_, fun ins hins => ?_, ?_, ?_, ?_, ?_, ?_, ?_,
    fun ins rnd h => ?_⟩
  · obtain ⟨op, hop, he⟩ := exec_fpOperation h
    obtain ⟨hinv, hover, hunder, hinexact⟩ := operation_traps hop he
    obtain ⟨hzero, hdivide⟩ := divf_by_zero f src dst
    refine ⟨hinv, fun s s1 a b l hf ha hl hb ⟨hi, hp⟩ => ?_, fun s s1 a b l hf ha hl hb ⟨hi, hp⟩ => ?_, hover, hunder,
      hinexact⟩
    · rw [hi]
      exact hzero s s1 a b l hf ha hl hb hp
    · rw [hi]
      exact hdivide s s1 a b l hf ha hl hb hp
  · refine ⟨fsrWithTt s.fsr 5, fsrUpdated_tt s.fsr (by decide), ?_⟩
    rw [exec_cmpf hf ha hb, if_pos (by rw [Bool.or_eq_true, fpReserved_iff, fpReserved_iff]; exact hres), run_fpTrap]
  · have hconvert (rm : Nat) (a : Nat) (v : Dword) (h : Reserved f a) :
        fpConvert rm i (fpUnpack f a) v = fpTrapWith v 5 := by rw [fpUnpack_reserved.2 h]; rfl
    simp only [List.mem_cons, List.not_mem_nil, or_false] at hins
    obtain rfl | rfl | rfl | rfl | rfl := hins
    · exact invalid_move (fun _ => rfl) fun a v h => if_pos (fpReserved_iff.2 h)
    · exact invalid_move (fun _ => rfl) fun a v h => if_pos (fpReserved_iff.2 h)
    · exact invalid_move (fun _ => rfl) (hconvert 0)
    · exact invalid_move (fun _ => rfl) (hconvert 1)
    · exact invalid_move (fun _ => rfl) (hconvert 3)
  · refine movlfTrapClaim_of (dst := dst) fun a v g h => ⟨_, ?_, fsrUpdated_tt v (by decide)⟩
    rw [fpUnpack_reserved.2 h]
    rfl
  · refine invalid_move (f := .single) (fun _ => rfl) fun a v h => ?_
    rw [fpUnpack_reserved.2 h]
    rfl
  · exact movlfTrapClaim_of fun a v g ⟨ha, hrange⟩ => (fpShorten_rounded g v ha hrange.ne_zero).overflow_traps hrange
  · exact movlfTrapClaim_of fun a v g ⟨ha, huen, h0, hlt⟩ => (fpShorten_rounded g v ha h0).underflow_traps hlt huen
  · exact movlfTrapClaim_of fun a v g ⟨ha, hien, hleast, hrange, hno⟩ =>
      (fpShorten_rounded g v ha (ne_zero_of_least hleast)).inexact_traps hleast hrange hien hno
  · refine fpMoveTrapClaim_of (exec_movif i f src dst) fun a v ⟨hien, hno⟩ => ?_
    have h0 : signed i.bits a ≠ 0 := by
      intro h0
      obtain ⟨hshort, -, -, -⟩ := fpZero_spec f false
      obtain ⟨hvalid, hzero⟩ := fpZero_valid f false
      exact hno ⟨fpZero f false, hshort, hvalid, by rw [hzero, h0, Int.cast_zero]⟩
    obtain ⟨hleast, hrange⟩ := int_inRange (f := f) h0 (signed_abs_lt i a) (v.toNat / 128 % 4)
    exact (fpFromInt_rounded v h0).inexact_traps hleast hrange hien hno
  · obtain ⟨rm, hrm, he⟩ := exec_fpConvert h
    exact convert_traps hrm he

end Sys2Proof.Machine
end

section
/-! PROOFS. Operands the spec leaves undefined (93_implementation_defined.md U5, U19, U23, U24 and U26). -/
namespace Sys2Proof.Machine

/-! ## Stops -/

theorem Res.fault_bind {α β : Type} (f : Fault) (g : α → Res β) : (faultWith f >>= g) = faultWith f := rfl

theorem Res.refuse_bind {α β : Type} (r : Refusal) (g : α → Res β) : (refuseWith r >>= g) = refuseWith r := rfl

theorem run_fault (s : State) (f : Fault) : s.run (faultWith f) = .fault f := rfl

theorem run_refuse (s : State) (r : Refusal) : s.run (refuseWith r) = .refused r := rfl

theorem fieldLength_refuses {d : Int} (h : d < 1 ∨ 32 < d) : fieldLength d = refuseWith .fieldLength :=
  if_neg (by omega)

/-- A displacement that no element count gives (U26). -/
theorem blockCount_refuses {n : Nat} {d : Int} (hn : 0 < n) (h : ∀ k : Nat, k * n < 16 → d ≠ k * n) :
    blockCount n d = refuseWith .blockLength := by
  refine if_neg fun ⟨h0, hmod, h16⟩ => ?_
  obtain ⟨c, hc⟩ := Int.dvd_of_emod_eq_zero hmod
  have hc0 : 0 ≤ c := by
    by_contra hneg
    have : (n : Int) * c < 0 := mul_neg_of_pos_of_neg (by omega) (by omega)
    omega
  obtain ⟨k, rfl⟩ : ∃ k : Nat, c = k := ⟨c.toNat, (Int.toNat_of_nonneg hc0).symm⟩
  have hd : d = (k * n : Nat) := by rw [hc]; push_cast; ring
  refine h k ?_ (by rw [hd]; push_cast; rfl)
  omega

/-! ## Odd registers (U5) -/

section
variable {k : Fin 8}

theorem pairOf_odd (hk : k.val % 2 = 1) : pairOf k = faultWith .oddRegisterPair := if_neg (by omega)

theorem readLoc_odd (hk : k.val % 2 = 1) (s : State) : s.readLoc 8 (.fpr k) = faultWith .oddRegisterPair := by
  rw [State.readLoc, if_pos rfl, pairOf_odd hk, Res.fault_bind]

theorem writeLoc_odd (hk : k.val % 2 = 1) (s : State) (v : Nat) :
    s.writeLoc 8 v (.fpr k) = faultWith .oddRegisterPair := by
  rw [State.writeLoc, if_pos rfl, pairOf_odd hk, Res.fault_bind]

theorem readOp_odd (hk : k.val % 2 = 1) (s0 s : State) :
    readOp .fp 8 s0 s (.mode (.reg k)) = faultWith .oddRegisterPair := by
  change (s.readLoc 8 (.fpr k) >>= fun v => Except.ok (v, s)) = _
  rw [readLoc_odd hk, Res.fault_bind]

/-- An odd source stops an operation of two operands. -/
theorem fpBinary_odd_src (hk : k.val % 2 = 1) {s : State} (hf : s.cfgF = true) (ins : Instr) (dst : Gen)
    (op : FpVal → FpVal → Dword → FpOut) :
    fpBinary .double ins (.mode (.reg k)) dst op s = faultWith .oddRegisterPair := by
  rw [fpBinary, fpGuard_body hf, show FpLen.double.bytes = 8 from rfl, readOp_odd hk, Res.fault_bind]

/-- An odd source stops an operation of one operand. -/
theorem fpUnary_odd_src (hk : k.val % 2 = 1) {s : State} (hf : s.cfgF = true) (bd : Bank) (nd : Nat) (ins : Instr)
    (dst : Gen) (op : Nat → Dword → FpOut) :
    fpUnary .fp bd 8 nd ins (.mode (.reg k)) dst op s = faultWith .oddRegisterPair := by
  rw [fpUnary, fpGuard_body hf, readOp_odd hk, Res.fault_bind]

/-- An odd destination stops an operation of two operands. -/
theorem fpBinary_odd_dst (hk : k.val % 2 = 1) {s s1 : State} {src : Gen} {a : Nat} (hf : s.cfgF = true)
    (ha : readOp .fp 8 s s src = .ok (a, s1)) (ins : Instr) (op : FpVal → FpVal → Dword → FpOut) :
    fpBinary .double ins src (.mode (.reg k)) op s = faultWith .oddRegisterPair := by
  have hl : locate .fp s s1 (.mode (.reg k)) = .ok (.fpr k) := rfl
  simp only [fpBinary, fpGuard_body hf, show FpLen.double.bytes = 8 from rfl, ha, hl, Res.ok_bind, readLoc_odd hk,
    Res.fault_bind]

/-- An odd destination stops a delivery. -/
theorem fpUnary_odd_dst (hk : k.val % 2 = 1) {s s1 : State} {bs : Bank} {ns a r : Nat} {src : Gen} {w : Dword}
    {op : Nat → Dword → FpOut} (hf : s.cfgF = true) (ha : readOp bs ns s s src = .ok (a, s1))
    (hop : op a s.fsr = ⟨w, some r⟩) (ins : Instr) :
    fpUnary bs .fp ns 8 ins src (.mode (.reg k)) op s = faultWith .oddRegisterPair := by
  have hl : locateWrite .fp 8 s s1 (.mode (.reg k)) = .ok (.fpr k, s1) := rfl
  rw [fpUnary_eq hf ha, hop]
  dsimp only
  rw [hl, Res.ok_bind, State.fpDeliver, writeLoc_odd hk, Res.fault_bind]

theorem exec_odd_src (hk : k.val % 2 = 1) {s : State} (hf : s.cfgF = true) (i : IntLen) (b : Gen) :
    ∀ ins ∈ [Instr.addf .double (.mode (.reg k)) b, .subf .double (.mode (.reg k)) b, .mulf .double (.mode (.reg k)) b,
      .divf .double (.mode (.reg k)) b, .cmpf .double (.mode (.reg k)) b, .negf .double (.mode (.reg k)) b,
      .absf .double (.mode (.reg k)) b, .movf .double (.mode (.reg k)) b, .movlf (.mode (.reg k)) b,
      .roundfi .double i (.mode (.reg k)) b, .truncfi .double i (.mode (.reg k)) b,
      .floorfi .double i (.mode (.reg k)) b], exec ins s = .fault .oddRegisterPair := by
  have binary (ins : Instr) (op : FpVal → FpVal → Dword → FpOut) :
      s.run (fpBinary .double ins (.mode (.reg k)) b op s) = .fault .oddRegisterPair := by
    rw [fpBinary_odd_src hk hf, run_fault]
  have unary (ins : Instr) (bd : Bank) (nd : Nat) (op : Nat → Dword → FpOut) :
      s.run (fpUnary .fp bd 8 nd ins (.mode (.reg k)) b op s) = .fault .oddRegisterPair := by
    rw [fpUnary_odd_src hk hf, run_fault]
  intro ins hins
  simp only [List.mem_cons, List.not_mem_nil, or_false] at hins
  obtain rfl | rfl | rfl | rfl | rfl | rfl | rfl | rfl | rfl | rfl | rfl | rfl := hins
  · exact binary _ _
  · exact binary _ _
  · exact binary _ _
  · exact binary _ _
  · change execCmpf .double (.mode (.reg k)) b s = _
    rw [execCmpf, fpGuard_body hf, show FpLen.double.bytes = 8 from rfl, readOp_odd hk, Res.fault_bind, run_fault]
  · exact unary _ _ _ _
  · exact unary _ _ _ _
  · exact unary _ _ _ _
  · change execMovlf (.mode (.reg k)) b s = _
    rw [execMovlf, fpGuard_body hf, readOp_odd hk, Res.fault_bind, run_fault]
  · exact unary _ _ _ _
  · exact unary _ _ _ _
  · exact unary _ _ _ _

theorem exec_odd_dst (hk : k.val % 2 = 1) {s s1 : State} {v : Nat} {a : Gen} (hf : s.cfgF = true)
    (ha : readOp .fp 8 s s a = .ok (v, s1)) :
    (∀ ins ∈ [Instr.addf .double a (.mode (.reg k)), .subf .double a (.mode (.reg k)),
      .mulf .double a (.mode (.reg k)), .divf .double a (.mode (.reg k)), .cmpf .double a (.mode (.reg k)),
      .movf .double a (.mode (.reg k))], exec ins s = .fault .oddRegisterPair) ∧
    (¬ Reserved .double v → ∀ ins ∈ [Instr.negf .double a (.mode (.reg k)), .absf .double a (.mode (.reg k))],
      exec ins s = .fault .oddRegisterPair) := by
  have binary (ins : Instr) (op : FpVal → FpVal → Dword → FpOut) :
      s.run (fpBinary .double ins a (.mode (.reg k)) op s) = .fault .oddRegisterPair := by
    rw [fpBinary_odd_dst hk hf ha, run_fault]
  have unary {w : Dword} {r : Nat} (ins : Instr) {op : Nat → Dword → FpOut} (hop : op v s.fsr = ⟨w, some r⟩) :
      s.run (fpUnary .fp .fp 8 8 ins a (.mode (.reg k)) op s) = .fault .oddRegisterPair := by
    rw [fpUnary_odd_dst hk hf ha hop, run_fault]
  refine ⟨fun ins hins => ?_, fun hres ins hins => ?_⟩
  · simp only [List.mem_cons, List.not_mem_nil, or_false] at hins
    obtain rfl | rfl | rfl | rfl | rfl | rfl := hins
    · exact binary _ _
    · exact binary _ _
    · exact binary _ _
    · exact binary _ _
    · change execCmpf .double a (.mode (.reg k)) s = _
      simp only [execCmpf, fpGuard_body hf, show FpLen.double.bytes = 8 from rfl, ha, Res.ok_bind, readOp_odd hk,
        Res.fault_bind, run_fault]
    · exact unary _ rfl
  · simp only [List.mem_cons, List.not_mem_nil, or_false] at hins
    obtain rfl | rfl := hins
    · exact unary _ (if_neg (mt fpReserved_iff.1 hres))
    · exact unary _ (if_neg (mt fpReserved_iff.1 hres))

/-- Any integer is delivered as a long number. -/
theorem fpFromInt_double (i : IntLen) (a : Nat) (v : Dword) :
    ∃ (w : Dword) (r : Nat), fpFromInt .double (signed i.bits a) v = ⟨w, some r⟩ := by
  by_cases h0 : signed i.bits a = 0
  · exact ⟨_, _, if_pos h0⟩
  · obtain ⟨p, hout, -⟩ := (fpFromInt_rounded v h0).exact (by exact_mod_cast h0)
      (exists_double_of_int h0 (signed_abs_lt i a))
    exact ⟨_, p, hout⟩

theorem exec_movfl_odd (hk : k.val % 2 = 1) {s s1 : State} {v : Nat} {a : Gen} (hf : s.cfgF = true)
    (ha : readOp .fp 4 s s a = .ok (v, s1)) (hv : ¬ Reserved .single v) :
    exec (.movfl a (.mode (.reg k))) s = .fault .oddRegisterPair := by
  obtain ⟨r, hout, -⟩ := fpLengthen_exact s.fsr hv
  have h := fpUnary_odd_dst (op := fun v fsr => fpLengthen (fpUnpack .single v) fsr) hk hf ha hout
    (.movfl a (.mode (.reg k)))
  exact congrArg s.run h

theorem exec_movif_odd (hk : k.val % 2 = 1) {s s1 : State} {v : Nat} {i : IntLen} {a : Gen} (hf : s.cfgF = true)
    (ha : readOp .int i.bytes s s a = .ok (v, s1)) :
    exec (.movif i .double a (.mode (.reg k))) s = .fault .oddRegisterPair := by
  obtain ⟨w, r, hout⟩ := fpFromInt_double i v s.fsr
  have h := fpUnary_odd_dst (op := fun v fsr => fpFromInt .double (signed i.bits v) fsr) hk hf ha hout
    (.movif i .double a (.mode (.reg k)))
  rw [exec_movif]
  exact congrArg s.run h

end

/-! ## Bits and fields outside their base (U23, U24) -/

theorem locateBit_outside {k : Fin 8} {o : Int} (h : o < 0 ∨ 32 ≤ o) :
    locateBit (.gpr k) o = faultWith .bitOutsideRegister := if_neg (by omega)

theorem locateField_outside {k : Fin 8} {o : Int} {n : Nat} (h : o < 0 ∨ 32 < o + n) :
    locateField (.gpr k) o n = faultWith .bitOutsideRegister := if_neg (by omega)

theorem locateField_wide {ea : Dword} {o : Int} {n : Nat} (h0 : 0 ≤ ea.toNat + ⌊(o : ℚ) / 8⌋)
    (h24 : ea.toNat + ⌊(o : ℚ) / 8⌋ < 16777216) (hw : 32 < o - 8 * ⌊(o : ℚ) / 8⌋ + n) :
    locateField (.mem ea) o n = faultWith .fieldTooWide := by
  rw [← fmod_eighth] at hw
  rw [floor_eighth] at h0 h24
  obtain ⟨a, ha⟩ : ∃ a : Dword, (a.toNat : Int) = ea.toNat + o.fdiv 8 := by
    refine ⟨BitVec.ofNat 32 (ea.toNat + o.fdiv 8).toNat, ?_⟩
    rw [BitVec.toNat_ofNat]
    omega
  have hat := byteAt_eq ha (by omega)
  rw [locateField, hat, Res.ok_bind, if_neg]
  have := Int.fmod_nonneg_of_pos o (show (0 : Int) < 8 by decide)
  omega

/-- A bit outside a register, in each bit instruction. -/
theorem bit_outside {i : IntLen} {a : Gen} {k : Fin 8} {s s1 : State} {v : Nat}
    (hv : readOp .int i.bytes s s a = .ok (v, s1)) (h : signed i.bits v < 0 ∨ 32 ≤ signed i.bits v) :
    ∀ ins ∈ [Instr.tbiti i a (.mode (.reg k)), .sbiti i a (.mode (.reg k)), .cbiti i a (.mode (.reg k)),
      .ibiti i a (.mode (.reg k)), .sbitii i a (.mode (.reg k)), .cbitii i a (.mode (.reg k))],
      exec ins s = .fault .bitOutsideRegister := by
  have hl : locate .int s s1 (.mode (.reg k)) = .ok (.gpr k) := rfl
  have hbit : locateBit (.gpr k) (sext i.bits v) = faultWith .bitOutsideRegister :=
    locateBit_outside (by rw [sext_eq_signed i.bits_pos]; exact h)
  have shape (f : Nat → Nat → Nat) (g : Loc × State → Res State) :
      s.run (bitShape i a (.mode (.reg k)) f s >>= g) = .fault .bitOutsideRegister := by
    simp only [bitShape, hv, hl, Res.ok_bind, hbit, Res.fault_bind, run_fault]
  intro ins hins
  simp only [List.mem_cons, List.not_mem_nil, or_false] at hins
  obtain rfl | rfl | rfl | rfl | rfl | rfl := hins
  · simp only [exec_tbiti, hv, hl, Res.ok_bind, hbit, Res.fault_bind, run_fault]
  · exact shape _ _
  · exact shape _ _
  · exact shape _ _
  · exact shape _ _
  · exact shape _ _

/-- A field that cannot be located stops an extraction. -/
theorem extract_stops {i : IntLen} {ins : Instr} {base dst : Gen} {o : Int} {n : Nat} {s : State} {l : Loc} {f : Fault}
    (he : exec ins s = s.run (extractShape i ins base dst o n s)) (hl : locate .int s s base = .ok l)
    (hfield : locateField l o n = faultWith f) : exec ins s = .fault f := by
  rw [he, extractShape, hl, Res.ok_bind, State.readField, hfield, Res.fault_bind, Res.fault_bind, run_fault]

/-- A field that cannot be located stops an insertion. -/
theorem insert_stops {i : IntLen} {ins : Instr} {src base : Gen} {o : Int} {n v : Nat} {s s1 : State} {l : Loc} {f : Fault}
    (he : exec ins s = s.run (insertShape i ins src base o n s)) (hv : readOp .int i.bytes s s src = .ok (v, s1))
    (hl : locate .int s s1 base = .ok l) (hfield : locateField l o n = faultWith f) : exec ins s = .fault f := by
  simp only [he, insertShape, hv, hl, Res.ok_bind, State.writeField, hfield, Res.fault_bind, run_fault]

/-- Settles O35: each undefined operand stops where the instruction looks at it. -/
theorem undefinedOperands : Obligations.UndefinedOperands := by
  intro i off a b len s
  refine ⟨fun h => ⟨?_, ?_⟩, fun h => ⟨?_, ?_⟩, fun k s1 v hk hv => ⟨?_, ?_⟩, fun k hk hf => exec_odd_src hk hf i b,
    fun k s1 v hv h => bit_outside hv h,
    fun k s1 v hk hf => ⟨fun hv => exec_odd_dst hk hf hv, fun hv hres => exec_movfl_odd hk hf hv hres,
      fun hv => exec_movif_odd hk hf hv⟩, fun ins n o o3 l5 h => ?_, fun ins n o o3 l5 s1 v h hv => ?_⟩
  · rw [exec_exti, fieldLength_refuses h, Res.refuse_bind, run_refuse]
  · rw [exec_insi, fieldLength_refuses h, Res.refuse_bind, run_refuse]
  · rw [exec_movmi, blockCount_refuses (by cases i <;> decide) h, Res.refuse_bind, run_refuse]
  · rw [exec_cmpmi, blockCount_refuses (by cases i <;> decide) h, Res.refuse_bind, run_refuse]
  · have hl : locate .int s s1 (.mode (.reg k)) = .ok (.gpr k) := rfl
    change execMeii i a (.mode (.reg k)) s = _
    simp only [execMeii, hv, hl, Res.ok_bind, State.readLow, pairOf_odd hk, Res.fault_bind, run_fault]
  · have hl : locate .int s s1 (.mode (.reg k)) = .ok (.gpr k) := rfl
    simp only [exec_deii, hv, hl, Res.ok_bind, State.readPair, pairOf_odd hk, Res.fault_bind, run_fault]
  · have he : exec ins s = s.run (extractShape i ins a b o n s) := by
      obtain ⟨rfl, hd, h1, h32, rfl⟩ | ⟨rfl, rfl, rfl⟩ := h
      · rw [exec_exti, fieldLength_eq hd h1 h32, Res.ok_bind]
      · rfl
    refine ⟨fun k hk hout => ?_, fun ea hl h0 h24 hw => extract_stops he hl (locateField_wide h0 h24 hw)⟩
    subst hk
    exact extract_stops he rfl (locateField_outside hout)
  · have he : exec ins s = s.run (insertShape i ins a b o n s) := by
      obtain ⟨rfl, hd, h1, h32, rfl⟩ | ⟨rfl, rfl, rfl⟩ := h
      · rw [exec_insi, fieldLength_eq hd h1 h32, Res.ok_bind]
      · rfl
    refine ⟨fun k hk hout => ?_, fun ea hl h0 h24 hw => insert_stops he hv hl (locateField_wide h0 h24 hw)⟩
    subst hk
    exact insert_stops he hv rfl (locateField_outside hout)

end Sys2Proof.Machine
end
